-- ==== Sys2Proof/Word.lean ====
section
/-! DEFINITION. The word and byte types of the block (00_scope R7 `REG_W` = 32, R9: a byte is an unsigned octet). -/

namespace Sys2Proof

/-- A register value: `REG_W` = 32 bits (00_scope R7). -/
abbrev Word := BitVec 32

/-- One byte of WMEM, an unsigned octet (00_scope R9). -/
abbrev Byte := BitVec 8

end Sys2Proof
end

