-- ==== Sys2Proof/Config.lean ====
section
/-! DEFINITION. The implementation parameters of 00_scope R7, as plain data. The fixed ones (`REG_W`, `ADDR_W`,
`MASKSIZE_MAX` = 32, the 64-bit accumulator) are built into the definitions that use them. The default contents of
the tables stand in Machine/Tables.lean. -/

namespace Sys2Proof

/-- The search restart behaviour `SEARCH_MODE` (00_scope R7, 42_search R143 and R144). -/
inductive SearchMode where
  | literal
  | naive
  deriving DecidableEq, Repr

/-- A cell of `BITRATE_TABLE`: `none` is INVALID, `some c` is `c` kbit/s, at most 14 913 (43_mpeg R180, R196). -/
abbrev BitrateCell := Option (Fin 14914)

/-- A cell of `SRATE_TABLE`: `none` is INVALID, `some c` is `c` Hz, below 2^31 (43_mpeg R181, R196). -/
abbrev SrateCell := Option (Fin 2147483648)

/-- 5 rows of 16 columns (43_mpeg R180). -/
abbrev BitrateTable := Vector (Vector BitrateCell 16) 5

/-- 3 rows of 4 columns (43_mpeg R181). -/
abbrev SrateTable := Vector (Vector SrateCell 4) 3

/-- The parameters a model takes as arguments (00_scope R7). -/
structure Config where
  /-- `WMEM_SIZE`, the number of addressable WMEM bytes. -/
  wmemSize : Nat
  searchMode : SearchMode
  bitrateTable : BitrateTable
  srateTable : SrateTable
  deriving DecidableEq, Repr

end Sys2Proof
end

