-- ==== Sys2Proof/Syntax.lean ====
section
/-! DEFINITION. The five commands of the block, one constructor per row of spec/opcode_table.json (30_encoding R72).
A command word has no operand field (R70, R75), so no constructor has an argument. -/

namespace Sys2Proof

/-- A command of the block (30_encoding R72). -/
inductive Instr where
  /-- EXTRACT, OPC 0x1 (40_bitfield R100). -/
  | extract
  /-- SYNCSAFE, OPC 0x2 (41_syncsafe R120). -/
  | syncsafe
  /-- FIND_MASKED, OPC 0x3 (42_search R140). -/
  | findMasked
  /-- FIND_BYTES, OPC 0x4 (42_search R150). -/
  | findBytes
  /-- MPEG_DECODE, OPC 0x5 (43_mpeg R170). -/
  | mpegDecode
  deriving DecidableEq, Repr

end Sys2Proof
end

