-- ==== Sys2Proof/WellFormed.lean ====
section
/-! DEFINITION. Well-formedness: of an instruction, of a command word, and of the configuration. -/

namespace Sys2Proof

/-- Every command is well-formed: it has no operand field that could be out of range (30_encoding R70, R75). -/
def Instr.wf : Instr → Bool
  | .extract => true
  | .syncsafe => true
  | .findMasked => true
  | .findBytes => true
  | .mpegDecode => true

/-- Bits [31:4] of a legal command word are 0 (30_encoding R74). -/
abbrev reservedBitsClear (c : Word) : Prop := c.extractLsb' 4 28 = 0#28

/-- The OPC field of a legal command word is 1 to 5 (30_encoding R72, R73). -/
abbrev opcodeLegal (c : Word) : Prop :=
  1 ≤ (c.extractLsb' 0 4).toNat ∧ (c.extractLsb' 0 4).toNat ≤ 5

/-- A legal command word (30_encoding R71). -/
abbrev commandWordLegal (c : Word) : Prop := reservedBitsClear c ∧ opcodeLegal c

/-- The range of `WMEM_SIZE` (00_scope R7). -/
abbrev Config.sizeLegal (cfg : Config) : Prop := 1 ≤ cfg.wmemSize ∧ cfg.wmemSize ≤ 2 ^ 32

/-- Column 15 of `BITRATE_TABLE` is INVALID (43_mpeg R180). -/
abbrev Config.bitrateReserved (cfg : Config) : Prop := ∀ row : Fin 5, cfg.bitrateTable[row][15] = none

/-- Column 3 of `SRATE_TABLE` is INVALID (43_mpeg R181). -/
abbrev Config.srateReserved (cfg : Config) : Prop := ∀ row : Fin 3, cfg.srateTable[row][3] = none

/-- The two cells the source's frame example fixes (43_mpeg R182). -/
abbrev Config.sourceCells (cfg : Config) : Prop :=
  cfg.bitrateTable[2][3] = some 48 ∧ cfg.srateTable[0][0] = some 44100

/-- The constraints on the parameters (00_scope R7, 43_mpeg R182). The bounds of R196 are in the cell types. -/
abbrev Config.wf (cfg : Config) : Prop :=
  cfg.sizeLegal ∧ cfg.bitrateReserved ∧ cfg.srateReserved ∧ cfg.sourceCells

end Sys2Proof
end

