-- ==== Sys2Proof/Decode.lean ====
section
/-! DEFINITION. Decoding a command word (30_encoding R71), then encoding a command (R72). -/

namespace Sys2Proof

/-- Why a command word is no command. Both are outcomes of the block, not faults (30_encoding R73, R74). -/
inductive IllegalWord where
  /-- A bit of [31:4] is set (30_encoding R74). -/
  | reservedCmdBits
  /-- OPC is 0 or 6 to 15 (30_encoding R73). -/
  | badOpcode
  deriving DecidableEq, Repr

/-- CMD[3:0], the opcode field of a command word (30_encoding R70). -/
def opcField (c : Word) : BitVec 4 := c.extractLsb' 0 4

/-- CMD[31:4], the reserved field of a command word (30_encoding R70). -/
def rsvField (c : Word) : BitVec 28 := c.extractLsb' 4 28

/-- The decode order of 30_encoding R71: total, the reserved bits first. -/
def decode (c : Word) : Except IllegalWord Instr :=
  if rsvField c ≠ 0#28 then .error .reservedCmdBits
  else if opcField c = 1#4 then .ok .extract
  else if opcField c = 2#4 then .ok .syncsafe
  else if opcField c = 3#4 then .ok .findMasked
  else if opcField c = 4#4 then .ok .findBytes
  else if opcField c = 5#4 then .ok .mpegDecode
  else .error .badOpcode

/-- The opcode of a command (30_encoding R72). -/
def Instr.opcode : Instr → BitVec 4
  | .extract => 0x1#4
  | .syncsafe => 0x2#4
  | .findMasked => 0x3#4
  | .findBytes => 0x4#4
  | .mpegDecode => 0x5#4

/-- The command word of a command: RSV = 0 above OPC (30_encoding R70, R72). -/
def encode (i : Instr) : Word := 0#28 ++ i.opcode

/-- What the decoder reads from a command word whose bits are `w`, numbered as the opcode table numbers them.
Bits above `nbits` are 0, and the block takes 32-bit words only (30_encoding R76). -/
def decodeTableWord (nbits w : Nat) : Option Instr :=
  if w % 2 ^ nbits < 2 ^ 32 then (decode (BitVec.ofNat 32 (w % 2 ^ nbits))).toOption else none

end Sys2Proof
end

