-- ==== Sys2Proof/Machine/Flags.lean ====
section
/-! DEFINITION. STATUS, the block's only flag state (10_state R24, R39): outcome kinds, causes and the packed word
(30_encoding R78 to R80). -/

namespace Sys2Proof.Machine

/-- STATUS.KIND (30_encoding R78). -/
inductive Kind where
  | ok | invalidArgument | notFound | formatMismatch | truncated | illegalCommand
  deriving DecidableEq, Repr

/-- STATUS.CAUSE (30_encoding R79). -/
inductive Cause where
  | none | emptyBuffer | windowRange | masksizeRange | bitRange | indexRange | lenMismatch | startRange
  | badSync | badVersion | badLayer | shortRead | badOpcode | reservedCmdBits
  deriving DecidableEq, Repr

/-- The KIND encoding (30_encoding R78); 6 and 7 are never written. -/
def Kind.code : Kind → BitVec 3
  | .ok => 0#3
  | .invalidArgument => 1#3
  | .notFound => 2#3
  | .formatMismatch => 3#3
  | .truncated => 4#3
  | .illegalCommand => 5#3

/-- The CAUSE encoding (30_encoding R79); 14 and 15 are never written. -/
def Cause.code : Cause → BitVec 4
  | .none => 0#4
  | .emptyBuffer => 1#4
  | .windowRange => 2#4
  | .masksizeRange => 3#4
  | .bitRange => 4#4
  | .indexRange => 5#4
  | .lenMismatch => 6#4
  | .startRange => 7#4
  | .badSync => 8#4
  | .badVersion => 9#4
  | .badLayer => 10#4
  | .shortRead => 11#4
  | .badOpcode => 12#4
  | .reservedCmdBits => 13#4

/-- `zext_32({OPC, CAUSE, 0b0, KIND})` (30_encoding R80). -/
def statusWord (opc : BitVec 4) (kind : Kind) (cause : Cause) : Word :=
  0#20 ++ opc ++ cause.code ++ 0#1 ++ kind.code

/-- STATUS.KIND of a status word, bits [2:0] (10_state R24). -/
def statusKind (w : Word) : BitVec 3 := w.extractLsb' 0 3

/-- STATUS.CAUSE of a status word, bits [7:4] (10_state R24). -/
def statusCause (w : Word) : BitVec 4 := w.extractLsb' 4 4

/-- STATUS.OPC of a status word, bits [11:8] (10_state R24). -/
def statusOpc (w : Word) : BitVec 4 := w.extractLsb' 8 4

/-- RESULT of every outcome but OK (10_state R25). -/
def sentinel : Word := 0xFFFFFFFF#32

end Sys2Proof.Machine
end

