-- ==== Sys2Proof/Machine/Bus.lean ====
section
/-! DEFINITION. The register space of the block (10_state R20) and the host's interactions with it (70 R256). -/

namespace Sys2Proof.Machine

/-- The registers of 10_state R20. -/
inductive Reg where
  | cmd | status | result | argA | argB
  | dataBase | dataLen | patBase | patLen | maskBase | maskLen
  | srcBase | srcLen | srcPos
  | fhFields | fhBitrate | fhSrate | fhFsize
  deriving DecidableEq, Repr

/-- The access column of 10_state R20. -/
inductive Access where
  | writeOnly
  | readOnly
  | readWrite
  deriving DecidableEq, Repr

/-- One interaction of the host (70 R256). -/
inductive HostAccess where
  /-- A register write of `width` bits at byte offset `offset`; at offset 0 a command (10_state R23). -/
  | regWrite (width offset : Nat) (value : Word)
  /-- A register read of `width` bits at byte offset `offset`. -/
  | regRead (width offset : Nat)
  /-- The host writes bytes of WMEM from `addr` up, outside the block's interface (20_memory R51). -/
  | wmemWrite (addr : Nat) (bytes : List Byte)
  /-- The platform reset (70 R250). -/
  | platformReset
  deriving DecidableEq, Repr

/-- Byte offsets of the registers (10_state R20). -/
def Reg.offset : Reg → Nat
  | .cmd => 0x00
  | .status => 0x04
  | .result => 0x08
  | .argA => 0x10
  | .argB => 0x14
  | .dataBase => 0x20
  | .dataLen => 0x24
  | .patBase => 0x28
  | .patLen => 0x2C
  | .maskBase => 0x30
  | .maskLen => 0x34
  | .srcBase => 0x40
  | .srcLen => 0x44
  | .srcPos => 0x48
  | .fhFields => 0x50
  | .fhBitrate => 0x54
  | .fhSrate => 0x58
  | .fhFsize => 0x5C

/-- Access types of the registers (10_state R20). -/
def Reg.access : Reg → Access
  | .cmd => .writeOnly
  | .status | .result | .fhFields | .fhBitrate | .fhSrate | .fhFsize => .readOnly
  | .argA | .argB | .dataBase | .dataLen | .patBase | .patLen | .maskBase | .maskLen
  | .srcBase | .srcLen | .srcPos => .readWrite

/-- The register at a byte offset; `none` is a reserved offset (10_state R20, R38). -/
def regAt (offset : Nat) : Option Reg :=
  [Reg.cmd, .status, .result, .argA, .argB, .dataBase, .dataLen, .patBase, .patLen, .maskBase, .maskLen,
    .srcBase, .srcLen, .srcPos, .fhFields, .fhBitrate, .fhSrate, .fhFsize].find? (fun r => r.offset == offset)

end Sys2Proof.Machine
end

