-- ==== Sys2Proof/Machine/Memory.lean ====
section
/-! DEFINITION. WMEM as a list of (address, byte) cells in canonical form (20_memory R51, R52). -/

namespace Sys2Proof.Machine

/-- WMEM's listed bytes: addresses strictly rising, no byte equal to what an unlisted address reads as. -/
abbrev Memory := List Host.Cell

/-- What an unlisted address reads as. DESIGN CHOICE: the spec states no WMEM contents before the host writes them;
unsafe, log entry 6. -/
def Memory.background : Byte := 0x00#8

/-- WMEM[a] (20_memory R52). -/
def Memory.read : Memory → Nat → Byte
  | [], _ => Memory.background
  | (b, w) :: rest, a => if b = a then w else Memory.read rest a

/-- Put a byte before the cells of higher addresses, listing it only when it differs from the background. -/
def Memory.put (a : Nat) (v : Byte) (rest : Memory) : Memory :=
  if v = Memory.background then rest else (a, v) :: rest

/-- Write one byte, keeping the canonical form. -/
def Memory.write : Memory → Nat → Byte → Memory
  | [], a, v => Memory.put a v []
  | (b, w) :: rest, a, v =>
    if b < a then (b, w) :: Memory.write rest a v
    else if b = a then Memory.put a v rest
    else Memory.put a v ((b, w) :: rest)

/-- Write bytes from `a` up. -/
def Memory.writeBytes (m : Memory) (a : Nat) : List Byte → Memory
  | [] => m
  | v :: vs => Memory.writeBytes (Memory.write m a v) (a + 1) vs

/-- The canonical form: addresses strictly rising, no background byte listed. -/
abbrev Memory.wf (m : Memory) : Prop :=
  m.Pairwise (fun x y => x.1 < y.1) ∧ ∀ c ∈ m, c.2 ≠ Memory.background

/-- Every listed address exists in a WMEM of `size` bytes (20_memory R51). -/
abbrev Memory.within (size : Nat) (m : Memory) : Prop := ∀ c ∈ m, c.1 < size

end Sys2Proof.Machine
end

