-- ==== Sys2Proof/Machine/FrameHeader.lean ====
section
/-! DEFINITION. The frame header the block stores (10_state R33 to R37, R44) and its register view. -/

namespace Sys2Proof.Machine

/-- `version ∈ 1, 2, 3` (10_state R33). -/
inductive Version where
  | v1 | v2 | v3
  deriving DecidableEq, Repr

/-- `layer ∈ 1, 2, 3` (10_state R33). -/
inductive Layer where
  | l1 | l2 | l3
  deriving DecidableEq, Repr

/-- `channelMode` (10_state R33). -/
inductive ChannelMode where
  | stereo | jointStereo | dualChannel | singleChannel
  deriving DecidableEq, Repr

/-- A derived value as FH_BITRATE, FH_SRATE and FH_FSIZE hold it: ERR, or a 31-bit VALUE (10_state R34 to R36). -/
inductive Derived where
  | err
  | value (v : BitVec 31)
  deriving DecidableEq, Repr

/-- The source's FrameHeader with its three derived values (10_state R44). -/
structure FrameHeader where
  version : Version
  layer : Layer
  isProtected : Bool
  bitrateIndex : BitVec 4
  srateIndex : BitVec 2
  padding : BitVec 1
  channelMode : ChannelMode
  bitrate : Derived
  samplingRate : Derived
  frameSize : Derived
  deriving DecidableEq, Repr

/-- FH_FIELDS.VERSION (10_state R33). -/
def Version.code : Version → BitVec 2
  | .v1 => 1#2
  | .v2 => 2#2
  | .v3 => 3#2

/-- FH_FIELDS.LAYER (10_state R33). -/
def Layer.code : Layer → BitVec 2
  | .l1 => 1#2
  | .l2 => 2#2
  | .l3 => 3#2

/-- FH_FIELDS.CHANNEL_MODE (10_state R33). -/
def ChannelMode.code : ChannelMode → BitVec 2
  | .stereo => 0#2
  | .jointStereo => 1#2
  | .dualChannel => 2#2
  | .singleChannel => 3#2

/-- Narrow an exact derived value to VALUE; `none` is ERR (10_state R34 to R36; nothing is lost by 43_mpeg R196). -/
def Derived.ofExact : Option Nat → Derived
  | none => .err
  | some n => .value (BitVec.ofNat 31 n)

/-- The register view of a derived value: bit 31 is ERR, bits 30..0 are VALUE (10_state R34 to R36). -/
def Derived.word : Derived → Word
  | .err => 0x80000000#32
  | .value v => 0#1 ++ v

/-- The packing of FH_FIELDS with PARSED = 1 (10_state R33, 43_mpeg R176). -/
def FrameHeader.fieldsWord (h : FrameHeader) : Word :=
  0#17 ++ h.channelMode.code ++ h.padding ++ h.srateIndex ++ h.bitrateIndex ++ BitVec.ofBool h.isProtected
    ++ h.layer.code ++ h.version.code ++ 1#1

/-- FH_FIELDS; 0 in Seeking (10_state R33, R37). -/
def fhFieldsWord (fh : Option FrameHeader) : Word := (fh.map FrameHeader.fieldsWord).getD 0#32

/-- FH_BITRATE; 0 in Seeking (10_state R34). -/
def fhBitrateWord (fh : Option FrameHeader) : Word := (fh.map fun h => h.bitrate.word).getD 0#32

/-- FH_SRATE; 0 in Seeking (10_state R35). -/
def fhSrateWord (fh : Option FrameHeader) : Word := (fh.map fun h => h.samplingRate.word).getD 0#32

/-- FH_FSIZE; 0 in Seeking (10_state R36). -/
def fhFsizeWord (fh : Option FrameHeader) : Word := (fh.map fun h => h.frameSize.word).getD 0#32

end Sys2Proof.Machine
end

