-- ==== Sys2Proof/Machine/Tables.lean ====
section
/-! DEFINITION. The lookup tables' default contents (43_mpeg R180, R181), their row selection (R183) and the derived
values computed from them (R191 to R193). -/

namespace Sys2Proof.Machine

/-- The default `BITRATE_TABLE` in kbit/s (43_mpeg R180). PRESUMED: the spec takes all cells but (2,3) and column 15
from general knowledge (93 G1, G7); unsafe, log entry 5. -/
def defaultBitrateTable : BitrateTable :=
  #v[ #v[some 0, some 32, some 64, some 96, some 128, some 160, some 192, some 224, some 256, some 288, some 320,
        some 352, some 384, some 416, some 448, none],
      #v[some 0, some 32, some 48, some 56, some 64, some 80, some 96, some 112, some 128, some 160, some 192,
        some 224, some 256, some 320, some 384, none],
      #v[some 0, some 32, some 40, some 48, some 56, some 64, some 80, some 96, some 112, some 128, some 160,
        some 192, some 224, some 256, some 320, none],
      #v[some 0, some 32, some 48, some 56, some 64, some 80, some 96, some 112, some 128, some 144, some 160,
        some 176, some 192, some 224, some 256, none],
      #v[some 0, some 8, some 16, some 24, some 32, some 40, some 48, some 56, some 64, some 80, some 96,
        some 112, some 128, some 144, some 160, none] ]

/-- The default `SRATE_TABLE` in Hz (43_mpeg R181). PRESUMED: the spec takes all cells but (0,0) and column 3 from
general knowledge (93 G2); unsafe, log entry 5. -/
def defaultSrateTable : SrateTable :=
  #v[ #v[some 44100, some 48000, some 32000, none],
      #v[some 22050, some 24000, some 16000, none],
      #v[some 11025, some 12000, some 8000, none] ]

/-- The default configuration (00_scope R7); log entry 4. -/
def defaultConfig : Config :=
  { wmemSize := 2 ^ 32, searchMode := .literal, bitrateTable := defaultBitrateTable,
    srateTable := defaultSrateTable }

/-- The bitrate row of a version and layer (43_mpeg R183). -/
def bitrateRow : Version → Layer → Fin 5
  | .v1, .l1 => 0
  | .v1, .l2 => 1
  | .v1, .l3 => 2
  | .v2, .l1 => 3
  | .v2, .l2 => 4
  | .v2, .l3 => 4
  | .v3, .l1 => 3
  | .v3, .l2 => 4
  | .v3, .l3 => 4

/-- The sampling-rate row of a version, `version - 1` (43_mpeg R183). -/
def srateRow : Version → Fin 3
  | .v1 => 0
  | .v2 => 1
  | .v3 => 2

/-- The derived bitrate in bit/s, exact; `none` is ERR (43_mpeg R191). -/
def bitrateOf (cfg : Config) (v : Version) (l : Layer) (bi : BitVec 4) : Option Nat :=
  (cfg.bitrateTable[bitrateRow v l][bi.toFin]).map fun c => c.val * 1000

/-- The derived sampling rate in Hz, exact; `none` is ERR (43_mpeg R192). -/
def samplingRateOf (cfg : Config) (v : Version) (si : BitVec 2) : Option Nat :=
  (cfg.srateTable[srateRow v][si.toFin]).map fun c => c.val

/-- The derived frame size in bytes, exact; `none` is ERR (43_mpeg R193). -/
def frameSizeOf (l : Layer) (br sr : Option Nat) (pad : Nat) : Option Nat :=
  match br, sr with
  | some b, some r =>
    if r = 0 then none
    else match l with
      | .l1 => some ((12 * b / r + pad) * 4)
      | .l2 => some (144 * b / r + pad)
      | .l3 => some (144 * b / r + pad)
  | none, _ => none
  | some _, none => none

end Sys2Proof.Machine
end

