-- ==== Sys2Proof/Machine/State.lean ====
section
/-! DEFINITION. The state of the block (10_state R44), of the memory it reads (20_memory R51), of its configuration
(00_scope R7) and of the host that drives it (70 R256), as plain data; the reasons a step can stop; the reset state. -/

namespace Sys2Proof.Machine

/-- The machine. The registers are those of 10_state R44. `config` is the configuration, which no step changes
(DESIGN CHOICE, safe, log entry 3). `hostProgram` and `readData` stand for the host (DESIGN CHOICE, safe, log
entries 1 and 8). -/
structure State where
  status : Word
  result : Word
  argA : Word
  argB : Word
  dataBase : Word
  dataLen : Word
  patBase : Word
  patLen : Word
  maskBase : Word
  maskLen : Word
  srcBase : Word
  srcLen : Word
  srcPos : Word
  /-- `none` is Seeking, `some` is Parsed (10_state R37). -/
  fh : Option FrameHeader
  wmem : Memory
  config : Config
  /-- The host accesses still to be performed, the next one first. -/
  hostProgram : List HostAccess
  /-- What the host's last register read got back. -/
  readData : Option Word
  deriving DecidableEq, Repr

/-- Why a step stops with a fault. -/
inductive Fault where
  /-- Raised by a host write of WMEM at an address WMEM does not have (20_memory R51). The block itself never
  faults. Safe: the machine stops (log entry 7). -/
  | wmemAddress
  deriving DecidableEq, Repr

/-- Why a step is refused. -/
inductive Refusal where
  /-- An instruction that has no meaning yet. Raised by no arm of exec: every command has its meaning. Safe. -/
  | notModelled (mnemonic : String)
  /-- Raised by a host register access that is not 32 bits wide (20_memory R50). Safe: the chip's answer is unknown
  (log entry 9). -/
  | accessWidth
  /-- Raised by a host register access at an offset that is no multiple of 4 (20_memory R50). Safe (log entry 9). -/
  | accessUnaligned
  /-- Raised by a host register access at an offset of 0x100 or more (20_memory R50). Safe (log entry 9). -/
  | accessOffset
  deriving DecidableEq, Repr

/-- The machine after reset: every register 0, the decoder in Seeking (10_state R43, 70 R250), the default
configuration (00_scope R7, log entry 4), nothing listed in WMEM (log entry 6) and no host access waiting (log
entry 1). -/
def State.reset : State :=
  { status := 0#32, result := 0#32, argA := 0#32, argB := 0#32, dataBase := 0#32, dataLen := 0#32,
    patBase := 0#32, patLen := 0#32, maskBase := 0#32, maskLen := 0#32, srcBase := 0#32, srcLen := 0#32,
    srcPos := 0#32, fh := none, wmem := [], config := defaultConfig, hostProgram := [], readData := none }

end Sys2Proof.Machine
end

