-- ==== Sys2Proof/Machine/Ops.lean ====
section
/-! DEFINITION. The named operations over the registers. `State.raise` is the one shared way a command ends without
success: the block has no trap entry and no trap return (60 R227, R228), and an abnormal outcome is a status value
(60 R220, R222). -/

namespace Sys2Proof.Machine

/-- `raise Status(KIND, CAUSE)`: STATUS and RESULT are written, nothing else (00_scope R12, 60 R222). -/
def State.raise (s : State) (opc : BitVec 4) (kind : Kind) (cause : Cause) : State :=
  { s with status := statusWord opc kind cause, result := sentinel }

/-- `finish(v)`: STATUS with KIND = OK, and RESULT = v (00_scope R12). -/
def State.finish (s : State) (opc : BitVec 4) (v : Word) : State :=
  { s with status := statusWord opc .ok .none, result := v }

/-- `fail(KIND, CAUSE)` of MPEG_DECODE: FH becomes `none`, and SRC_POS is not written (43_mpeg R170, R177). -/
def State.failDecode (s : State) (kind : Kind) (cause : Cause) : State :=
  { s.raise Instr.mpegDecode.opcode kind cause with fh := none }

/-- The success end of MPEG_DECODE: every FH register in one step, SRC_POS + 4, RESULT = 0 (43_mpeg R175, R176). -/
def State.acceptDecode (s : State) (h : FrameHeader) : State :=
  { s.finish Instr.mpegDecode.opcode 0#32 with fh := some h, srcPos := s.srcPos + 4#32 }

/-- The outcome of an illegal command word `c` (30_encoding R71, R73, R74). -/
def State.illegal (s : State) (c : Word) : IllegalWord → State
  | .reservedCmdBits => s.raise (opcField c) .illegalCommand .reservedCmdBits
  | .badOpcode => s.raise (opcField c) .illegalCommand .badOpcode

/-- The value a host read of a register returns (10_state R20, R23, R33 to R36). -/
def State.readReg (s : State) : Reg → Word
  | .cmd => 0#32
  | .status => s.status
  | .result => s.result
  | .argA => s.argA
  | .argB => s.argB
  | .dataBase => s.dataBase
  | .dataLen => s.dataLen
  | .patBase => s.patBase
  | .patLen => s.patLen
  | .maskBase => s.maskBase
  | .maskLen => s.maskLen
  | .srcBase => s.srcBase
  | .srcLen => s.srcLen
  | .srcPos => s.srcPos
  | .fhFields => fhFieldsWord s.fh
  | .fhBitrate => fhBitrateWord s.fh
  | .fhSrate => fhSrateWord s.fh
  | .fhFsize => fhFsizeWord s.fh

/-- A host write of a register other than CMD: a read-write register takes the value whole (20_memory R50), a
read-only one ignores it (10_state R38). A write of CMD is a command, which Machine/HostBus.lean performs. -/
def State.writeReg (s : State) (r : Reg) (v : Word) : State :=
  match r with
  | .cmd => s
  | .status => s
  | .result => s
  | .argA => { s with argA := v }
  | .argB => { s with argB := v }
  | .dataBase => { s with dataBase := v }
  | .dataLen => { s with dataLen := v }
  | .patBase => { s with patBase := v }
  | .patLen => { s with patLen := v }
  | .maskBase => { s with maskBase := v }
  | .maskLen => { s with maskLen := v }
  | .srcBase => { s with srcBase := v }
  | .srcLen => { s with srcLen := v }
  | .srcPos => { s with srcPos := v }
  | .fhFields => s
  | .fhBitrate => s
  | .fhSrate => s
  | .fhFsize => s

/-- A host read at a defined byte offset; a reserved offset reads 0 (10_state R38). -/
def State.readOffset (s : State) (offset : Nat) : Word :=
  match regAt offset with
  | some r => s.readReg r
  | none => 0#32

/-- The platform reset: every register to 0, FH to `none`; WMEM and the tables are not touched (10_state R43,
70 R250). The host's own fields are not the block's (log entry 10). -/
def State.platformReset (s : State) : State :=
  { State.reset with
    wmem := s.wmem, config := s.config, hostProgram := s.hostProgram, readData := s.readData }

/-- Why a host register access is not part of the interface, if it is not (20_memory R50). The order of the three
reasons is a DESIGN CHOICE, safe, log entry 9. -/
def accessRefusal (width offset : Nat) : Option Refusal :=
  if width ≠ 32 then some .accessWidth
  else if offset % 4 ≠ 0 then some .accessUnaligned
  else if 0x100 ≤ offset then some .accessOffset
  else none

end Sys2Proof.Machine
end

