-- ==== Sys2Proof/Machine/Operands.lean ====
section
/-! DEFINITION. The operands a command reads (30_encoding R75): windows over WMEM and the stream at the cursor. -/

namespace Sys2Proof.Machine

/-- A window is in range, computed without wrap (20_memory R55). -/
abbrev State.inRange (s : State) (base len : Word) : Prop := base.toNat + len.toNat ≤ s.config.wmemSize

/-- Byte `k` of the window at `base` (20_memory R52, R54). The number and order of the physical reads are not
modelled (93 I3, log entry 11). -/
def State.windowByte (s : State) (base : Word) (k : Nat) : Byte := s.wmem.read (base.toNat + k)

/-- `data[k]`, `buffer[k]` (30_encoding R75). -/
def State.dataByte (s : State) (k : Nat) : Byte := s.windowByte s.dataBase k

/-- `pattern[k]` (30_encoding R75). -/
def State.patByte (s : State) (k : Nat) : Byte := s.windowByte s.patBase k

/-- `mask[k]` (30_encoding R75). -/
def State.maskByte (s : State) (k : Nat) : Byte := s.windowByte s.maskBase k

/-- The byte of stream position `p` (20_memory R56). -/
def State.streamByte (s : State) (p : Nat) : Byte := s.windowByte s.srcBase p

/-- The available byte count at the cursor (20_memory R56). -/
def State.avail (s : State) : Nat :=
  if s.srcPos.toNat ≤ s.srcLen.toNat then s.srcLen.toNat - s.srcPos.toNat else 0

end Sys2Proof.Machine
end

