-- ==== Sys2Proof/Machine/BitField.lean ====
section
/-! DEFINITION. EXTRACT (40_bitfield R100 to R107). -/

namespace Sys2Proof.Machine

/-- The 64-bit accumulator over bytes `lo .. hi` (40_bitfield R100, R103). -/
def accumulate (buf : Nat → Byte) (lo hi : Nat) : BitVec 64 :=
  (List.range (hi + 1 - lo)).foldl (fun acc k => acc ||| ((buf (lo + k)).setWidth 64 <<< (8 * k))) 0#64

/-- EXTRACT's value function: the `ms`-bit field of `buf` at bitstream position `fb` (40_bitfield R100, R104). The
frame decoder uses it too (43_mpeg R170 `bits`). -/
def extractField (buf : Nat → Byte) (fb ms : Nat) : Word :=
  let acc := accumulate buf (fb / 8) ((fb + ms - 1) / 8)
  ((acc >>> (fb % 8)) &&& ((1#64 <<< ms) - 1#64)).setWidth 32

/-- The first argument test of EXTRACT that fails (40_bitfield R102). -/
def extractCheck (s : State) : Option Cause :=
  if s.dataLen.toNat = 0 then some .emptyBuffer
  else if ¬ s.inRange s.dataBase s.dataLen then some .windowRange
  else if s.argB.toNat < 1 ∨ 32 < s.argB.toNat then some .masksizeRange
  else if 8 * s.dataLen.toNat < s.argA.toNat + s.argB.toNat then some .bitRange
  else none

/-- EXTRACT (40_bitfield R100). -/
def execExtract (s : State) : Host.Outcome State Fault Refusal :=
  match extractCheck s with
  | some cause => .next (s.raise Instr.extract.opcode .invalidArgument cause)
  | none => .next (s.finish Instr.extract.opcode (extractField s.dataByte s.argA.toNat s.argB.toNat))

end Sys2Proof.Machine
end

