-- ==== Sys2Proof/Machine/Mpeg.lean ====
section
/-! DEFINITION. MPEG_DECODE (43_mpeg R170 to R198). -/

namespace Sys2Proof.Machine

/-- `reverse(w)` of the 4 header bytes at the cursor (43_mpeg R172). -/
def State.reversedHeader (s : State) (k : Nat) : Byte := s.streamByte (s.srcPos.toNat + (3 - k))

/-- The version map 3→1, 2→2, 0→3; field value 1 is unmapped (43_mpeg R174). -/
def versionOf (vf : BitVec 2) : Option Version :=
  if vf = 3#2 then some .v1 else if vf = 2#2 then some .v2 else if vf = 0#2 then some .v3 else none

/-- The layer map 3→1, 2→2, 1→3; field value 0 is unmapped (43_mpeg R174). -/
def layerOf (lf : BitVec 2) : Option Layer :=
  if lf = 3#2 then some .l1 else if lf = 2#2 then some .l2 else if lf = 1#2 then some .l3 else none

/-- The channel-mode map 0 Stereo, 1 JointStereo, 2 Dual, 3 Single (43_mpeg R179). -/
def channelModeOf (cm : BitVec 2) : ChannelMode :=
  if cm = 0#2 then .stereo else if cm = 1#2 then .jointStereo
  else if cm = 2#2 then .dualChannel else .singleChannel

/-- The record of a header whose version and layer are mapped: the fields of 43_mpeg R172, R178, R179 and the derived
values of R191 to R193. -/
def headerOf (cfg : Config) (r : Nat → Byte) (v : Version) (l : Layer) : FrameHeader :=
  let bi : BitVec 4 := (extractField r 12 4).setWidth 4
  let si : BitVec 2 := (extractField r 10 2).setWidth 2
  let pad : BitVec 1 := (extractField r 9 1).setWidth 1
  { version := v
    layer := l
    isProtected := extractField r 16 1 == 0#32
    bitrateIndex := bi
    srateIndex := si
    padding := pad
    channelMode := channelModeOf ((extractField r 6 2).setWidth 2)
    bitrate := Derived.ofExact (bitrateOf cfg v l bi)
    samplingRate := Derived.ofExact (samplingRateOf cfg v si)
    frameSize := Derived.ofExact (frameSizeOf l (bitrateOf cfg v l bi) (samplingRateOf cfg v si) pad.toNat) }

/-- The header of the reversed bytes, or the first format test that fails: sync, version, layer
(43_mpeg R170, R173, R174). -/
def decodeHeader (cfg : Config) (r : Nat → Byte) : Except Cause FrameHeader :=
  if extractField r 21 11 ≠ 0x7FF#32 then .error .badSync
  else match versionOf ((extractField r 19 2).setWidth 2) with
    | none => .error .badVersion
    | some v => match layerOf ((extractField r 17 2).setWidth 2) with
      | none => .error .badLayer
      | some l => .ok (headerOf cfg r v l)

/-- MPEG_DECODE (43_mpeg R170): the window test, the short read (R171), then the header. -/
def execMpegDecode (s : State) : Host.Outcome State Fault Refusal :=
  if ¬ s.inRange s.srcBase s.srcLen then .next (s.failDecode .invalidArgument .windowRange)
  else if s.avail < 4 then .next (s.failDecode .truncated .shortRead)
  else match decodeHeader s.config s.reversedHeader with
    | .error cause => .next (s.failDecode .formatMismatch cause)
    | .ok h => .next (s.acceptDecode h)

end Sys2Proof.Machine
end

