-- ==== Sys2Proof/Machine/Search.lean ====
section
/-! DEFINITION. FIND_MASKED and FIND_BYTES (42_search R140 to R152). -/

namespace Sys2Proof.Machine

/-- What a scan returns (42_search R143, R144). -/
inductive SearchResult where
  | found (j : Nat)
  | notFound
  deriving DecidableEq, Repr

/-- Data byte `d` matches a pattern position under its mask; the pattern byte is not masked (42_search R142). -/
def byteMatches (d mask pattern : Byte) : Bool := (d &&& mask) == pattern

/-- The loop of `scan_literal` with `n` data bytes left, at index `i` and with `matched` positions matched
(42_search R143). After the last byte, `i` is N, so the test after the loop reports `N - P`. -/
def scanLiteralFrom (data pattern mask : Nat → Byte) (P : Nat) : Nat → Nat → Nat → SearchResult
  | 0, i, matched => if matched = P then .found (i - P) else .notFound
  | n + 1, i, matched =>
    if matched = P then .found (i - P)
    else if byteMatches (data i) (mask matched) (pattern matched) then
      scanLiteralFrom data pattern mask P n (i + 1) (matched + 1)
    else scanLiteralFrom data pattern mask P n (i + 1) 0

/-- `scan_literal` over N data bytes from offset s (42_search R143). -/
def scanLiteral (data pattern mask : Nat → Byte) (N P s : Nat) : SearchResult :=
  scanLiteralFrom data pattern mask P (N - s) s 0

/-- All P pattern positions match at offset j (42_search R144). -/
def matchesAt (data pattern mask : Nat → Byte) (P j : Nat) : Bool :=
  (List.range P).all fun k => byteMatches (data (j + k)) (mask k) (pattern k)

/-- The candidates of `scan_naive`, `n` of them from `j` up (42_search R144). -/
def scanNaiveFrom (data pattern mask : Nat → Byte) (P : Nat) : Nat → Nat → SearchResult
  | 0, _ => .notFound
  | n + 1, j =>
    if matchesAt data pattern mask P j then .found j else scanNaiveFrom data pattern mask P n (j + 1)

/-- `scan_naive` over N data bytes from offset s: no candidate when N - P < s (42_search R144). -/
def scanNaive (data pattern mask : Nat → Byte) (N P s : Nat) : SearchResult :=
  scanNaiveFrom data pattern mask P (N + 1 - (P + s)) s

/-- The scan `SEARCH_MODE` selects (42_search R140). -/
def scan (mode : SearchMode) (data pattern mask : Nat → Byte) (N P s : Nat) : SearchResult :=
  match mode with
  | .literal => scanLiteral data pattern mask N P s
  | .naive => scanNaive data pattern mask N P s

/-- How a search ends: `finish(j)`, or NOT_FOUND with CAUSE NONE (42_search R140, R145). -/
def State.endSearch (s : State) (opc : BitVec 4) : SearchResult → State
  | .found j => s.finish opc (BitVec.ofNat 32 j)
  | .notFound => s.raise opc .notFound .none

/-- The first argument test of FIND_MASKED that fails (42_search R141). -/
def findMaskedCheck (s : State) : Option Cause :=
  if s.dataLen.toNat = 0 then some .emptyBuffer
  else if s.patLen.toNat = 0 then some .emptyBuffer
  else if s.maskLen ≠ s.patLen then some .lenMismatch
  else if ¬ s.inRange s.dataBase s.dataLen then some .windowRange
  else if ¬ s.inRange s.patBase s.patLen then some .windowRange
  else if ¬ s.inRange s.maskBase s.maskLen then some .windowRange
  else if s.dataLen.toNat ≤ s.argA.toNat then some .startRange
  else none

/-- The first argument test of FIND_BYTES that fails (42_search R151). -/
def findBytesCheck (s : State) : Option Cause :=
  if s.dataLen.toNat = 0 then some .emptyBuffer
  else if s.patLen.toNat = 0 then some .emptyBuffer
  else if ¬ s.inRange s.dataBase s.dataLen then some .windowRange
  else if ¬ s.inRange s.patBase s.patLen then some .windowRange
  else if s.dataLen.toNat ≤ s.argA.toNat then some .startRange
  else none

/-- FIND_MASKED (42_search R140). -/
def execFindMasked (s : State) : Host.Outcome State Fault Refusal :=
  match findMaskedCheck s with
  | some cause => .next (s.raise Instr.findMasked.opcode .invalidArgument cause)
  | none =>
    .next (s.endSearch Instr.findMasked.opcode
      (scan s.config.searchMode s.dataByte s.patByte s.maskByte s.dataLen.toNat s.patLen.toNat s.argA.toNat))

/-- The all-ones mask of FIND_BYTES (42_search R150). -/
def onesMask (_k : Nat) : Byte := 0xFF#8

/-- FIND_BYTES (42_search R150). -/
def execFindBytes (s : State) : Host.Outcome State Fault Refusal :=
  match findBytesCheck s with
  | some cause => .next (s.raise Instr.findBytes.opcode .invalidArgument cause)
  | none =>
    .next (s.endSearch Instr.findBytes.opcode
      (scan s.config.searchMode s.dataByte s.patByte onesMask s.dataLen.toNat s.patLen.toNat s.argA.toNat))

end Sys2Proof.Machine
end

