-- ==== Sys2Proof/Machine/SyncSafe.lean ====
section
/-! DEFINITION. SYNCSAFE (41_syncsafe R120 to R124). -/

namespace Sys2Proof.Machine

/-- The decoded value of the four bytes at `si`: 7-bit groups, most significant first, no masking
(41_syncsafe R120, R121, R123). -/
def syncsafeValue (buf : Nat → Byte) (si : Nat) : Word :=
  (List.range 3).foldl (fun acc i => acc ||| ((buf (si + i)).setWidth 32 <<< (7 * (3 - i)))) 0#32
    ||| (buf (si + 3)).setWidth 32

/-- The first argument test of SYNCSAFE that fails (41_syncsafe R122). -/
def syncsafeCheck (s : State) : Option Cause :=
  if s.dataLen.toNat = 0 then some .emptyBuffer
  else if ¬ s.inRange s.dataBase s.dataLen then some .windowRange
  else if s.dataLen.toNat < s.argA.toNat + 4 then some .indexRange
  else none

/-- SYNCSAFE (41_syncsafe R120). -/
def execSyncsafe (s : State) : Host.Outcome State Fault Refusal :=
  match syncsafeCheck s with
  | some cause => .next (s.raise Instr.syncsafe.opcode .invalidArgument cause)
  | none => .next (s.finish Instr.syncsafe.opcode (syncsafeValue s.dataByte s.argA.toNat))

end Sys2Proof.Machine
end

