-- ==== Sys2Proof/Machine/Dispatch.lean ====
section
/-! DEFINITION. One arm per command (30_encoding R71, R72). -/

namespace Sys2Proof.Machine

def exec (i : Instr) (s : State) : Host.Outcome State Fault Refusal :=
  match i with
  | .extract => Sys2Proof.Machine.execExtract s
  | .syncsafe => Sys2Proof.Machine.execSyncsafe s
  | .findMasked => Sys2Proof.Machine.execFindMasked s
  | .findBytes => Sys2Proof.Machine.execFindBytes s
  | .mpegDecode => Sys2Proof.Machine.execMpegDecode s

end Sys2Proof.Machine
end

