-- ==== Sys2Proof/Machine/HostBus.lean ====
section
/-! DEFINITION. What each interaction of the host does (70 R256): register accesses, the command a CMD write starts,
host writes of WMEM, and the platform reset. -/

namespace Sys2Proof.Machine

/-- A write of command word `c` to CMD: decode, then the whole command as one step (10_state R23, 30_encoding R71,
00_scope R5). An illegal word ends with its status (30_encoding R73, R74). -/
def command (c : Word) (s : State) : Host.Outcome State Fault Refusal :=
  match decode c with
  | .ok i => exec i s
  | .error e => .next (s.illegal c e)

/-- A host register write at a defined offset (20_memory R50, 10_state R23, R38). -/
def regWriteAt (offset : Nat) (v : Word) (s : State) : Host.Outcome State Fault Refusal :=
  match regAt offset with
  | some .cmd => command v s
  | some r => .next (s.writeReg r v)
  | none => .next s

/-- A host register write (20_memory R50); an access outside the interface is refused. -/
def hostRegWrite (width offset : Nat) (v : Word) (s : State) : Host.Outcome State Fault Refusal :=
  match accessRefusal width offset with
  | some r => .refused r
  | none => regWriteAt offset v s

/-- A host register read (20_memory R50): the host gets back the register's value (70 R256). -/
def hostRegRead (width offset : Nat) (s : State) : Host.Outcome State Fault Refusal :=
  match accessRefusal width offset with
  | some r => .refused r
  | none => .next { s with readData := some (s.readOffset offset) }

/-- A host write of WMEM bytes (20_memory R51, 70 R256); an address WMEM does not have faults and nothing is
written (DESIGN CHOICE, safe, log entry 7). -/
def hostWmemWrite (addr : Nat) (bytes : List Byte) (s : State) : Host.Outcome State Fault Refusal :=
  if addr + bytes.length ≤ s.config.wmemSize then .next { s with wmem := s.wmem.writeBytes addr bytes }
  else .fault .wmemAddress

/-- One interaction of the host (70 R256). -/
def hostAccess (a : HostAccess) (s : State) : Host.Outcome State Fault Refusal :=
  match a with
  | .regWrite width offset v => hostRegWrite width offset v s
  | .regRead width offset => hostRegRead width offset s
  | .wmemWrite addr bytes => hostWmemWrite addr bytes s
  | .platformReset => .next s.platformReset

/-- The next host access, in the host's program order (20_memory R62); with none the block is idle and holds its
registers (60 R237, 70 R251; log entry 2). -/
def stepHost (s : State) : Host.Outcome State Fault Refusal :=
  match s.hostProgram with
  | [] => .next s
  | a :: rest => hostAccess a { s with hostProgram := rest }

/-- The host access that writes a command word to CMD (10_state R23, 30_encoding R81 `cmd`). -/
def cmdWrite (c : Word) : HostAccess := .regWrite 32 Reg.cmd.offset c

/-- The state whose next host access writes the `nbits`-bit table word `w` to CMD (log entry 1). -/
def placeCommand (s : State) (nbits w : Nat) : State :=
  { s with hostProgram := cmdWrite (BitVec.ofNat 32 (w % 2 ^ nbits)) :: s.hostProgram }

end Sys2Proof.Machine
end

