-- ==== Sys2Proof/Machine/Step.lean ====
section
/-! DEFINITION. One step of the machine: the next access of the host program (00_scope R5, 20_memory R62). -/

namespace Sys2Proof.Machine

def step (s : State) : Host.Outcome State Fault Refusal := stepHost s

/-- `s` with a command word as the host's next access, so that the next step runs that command (log entry 1). -/
def State.withFetchWord (s : State) (nbits w : Nat) : State := placeCommand s nbits w

end Sys2Proof.Machine
end

