-- ==== Sys2Proof/Machine/HostProgram.lean ====
section
/-! DEFINITION. The host-program syntax (30_encoding R81) and its pseudo-instructions (R82), as lists of host
accesses. -/

namespace Sys2Proof.Machine

/-- A statement of a host program that is an access (30_encoding R81). `rd NAME = v` is the access of `rd NAME`, and
`mem` is a launch premise, `State.withMem`, not an access. -/
inductive Stmt where
  | wr (r : Reg) (v : Word)
  | rd (r : Reg)
  | cmd (i : Instr)
  deriving DecidableEq, Repr

/-- A pseudo-instruction (30_encoding R82); `start` may be left out. -/
inductive Pseudo where
  | extract (base len firstBit maskSize : Word)
  | syncsafe (base len startIndex : Word)
  | findm (dbase dlen pbase plen mbase mlen : Word) (start : Option Word)
  | findb (dbase dlen pbase plen : Word) (start : Option Word)
  | seek (pos : Word)
  | mpeg (sbase slen pos : Word)
  deriving DecidableEq, Repr

/-- The bus access of a statement (30_encoding R81). -/
def Stmt.access : Stmt → HostAccess
  | .wr r v => .regWrite 32 r.offset v
  | .rd r => .regRead 32 r.offset
  | .cmd i => cmdWrite (encode i)

/-- The expansion of a pseudo-instruction, `start` being 0 when it is left out (30_encoding R82). -/
def Pseudo.expand : Pseudo → List Stmt
  | .extract base len firstBit maskSize =>
    [.wr .dataBase base, .wr .dataLen len, .wr .argA firstBit, .wr .argB maskSize, .cmd .extract]
  | .syncsafe base len startIndex =>
    [.wr .dataBase base, .wr .dataLen len, .wr .argA startIndex, .cmd .syncsafe]
  | .findm dbase dlen pbase plen mbase mlen start =>
    [.wr .dataBase dbase, .wr .dataLen dlen, .wr .patBase pbase, .wr .patLen plen, .wr .maskBase mbase,
      .wr .maskLen mlen, .wr .argA (start.getD 0#32), .cmd .findMasked]
  | .findb dbase dlen pbase plen start =>
    [.wr .dataBase dbase, .wr .dataLen dlen, .wr .patBase pbase, .wr .patLen plen,
      .wr .argA (start.getD 0#32), .cmd .findBytes]
  | .seek pos => [.wr .srcPos pos]
  | .mpeg sbase slen pos =>
    [.wr .srcBase sbase, .wr .srcLen slen, .wr .srcPos pos, .cmd .mpegDecode]

/-- The launch premise `mem addr: b0 b1 ...` (30_encoding R81, 70 R254). -/
def State.withMem (s : State) (addr : Nat) (bytes : List Byte) : State :=
  { s with wmem := s.wmem.writeBytes addr bytes }

/-- The machine about to run a host program (70 R254). -/
def State.withProgram (s : State) (p : List Stmt) : State := { s with hostProgram := p.map Stmt.access }

end Sys2Proof.Machine
end

