-- ==== Sys2Proof/Safety.lean ====
section
/-! DEFINITION. What counts as a safe step, and the invariants the claims use: the STATUS words the block can hold,
RESULT beside them, the frame header against the tables, and WMEM's form. -/

namespace Sys2Proof.Machine

/-- A host access the interface defines (20_memory R50, R51, 60 R230). -/
def HostAccess.defined (cfg : Config) : HostAccess → Prop
  | .regWrite width offset _ => width = 32 ∧ offset % 4 = 0 ∧ offset < 0x100
  | .regRead width offset => width = 32 ∧ offset % 4 = 0 ∧ offset < 0x100
  | .wmemWrite addr bytes => addr + bytes.length ≤ cfg.wmemSize
  | .platformReset => True

/-- The next host access, if there is one, is defined: the step is safe. -/
def State.safe (s : State) : Prop := ∀ a ∈ s.hostProgram.head?, a.defined s.config

/-- The STATUS words of successful commands (60 R221). -/
def successStatus : List Word := [0x100#32, 0x200#32, 0x300#32, 0x400#32, 0x500#32]

/-- The STATUS words of failing commands (60 R221, the table). -/
def failureStatus : List Word :=
  [0x111#32, 0x121#32, 0x131#32, 0x141#32] ++ [0x211#32, 0x221#32, 0x251#32]
    ++ [0x311#32, 0x321#32, 0x361#32, 0x371#32, 0x302#32] ++ [0x411#32, 0x421#32, 0x471#32, 0x402#32]
    ++ [0x521#32, 0x583#32, 0x593#32, 0x5A3#32, 0x5B4#32]

/-- The STATUS words of illegal command words (60 R221): BAD_OPCODE for OPC 0 and 6 to 15, RESERVED_CMD_BITS for
every OPC. -/
def illegalStatus : List Word :=
  [0x0C5#32, 0x6C5#32, 0x7C5#32, 0x8C5#32, 0x9C5#32, 0xAC5#32, 0xBC5#32, 0xCC5#32, 0xDC5#32, 0xEC5#32, 0xFC5#32]
    ++ [0x0D5#32, 0x1D5#32, 0x2D5#32, 0x3D5#32, 0x4D5#32, 0x5D5#32, 0x6D5#32, 0x7D5#32]
    ++ [0x8D5#32, 0x9D5#32, 0xAD5#32, 0xBD5#32, 0xCD5#32, 0xDD5#32, 0xED5#32, 0xFD5#32]

/-- Every value STATUS ever holds: the reset value and the words of 60 R221. -/
abbrev legalStatus (w : Word) : Prop :=
  w = 0#32 ∨ w ∈ successStatus ∨ w ∈ failureStatus ∨ w ∈ illegalStatus

/-- STATUS and RESULT agree: the sentinel on every KIND but OK (10_state R25), 0 after a decode (10_state R25), and
below 2^29 after SYNCSAFE (41_syncsafe R123). -/
abbrev State.outcomeLegal (s : State) : Prop :=
  legalStatus s.status ∧ (statusKind s.status ≠ 0#3 → s.result = 0xFFFFFFFF#32)
    ∧ (s.status = 0x500#32 → s.result = 0#32) ∧ (s.status = 0x200#32 → s.result.toNat < 2 ^ 29)

/-- A stored header's derived values are those of its stored version, layer, indices and padding under the tables
(43_mpeg R176, R191 to R193). -/
abbrev FrameHeader.coherent (cfg : Config) (h : FrameHeader) : Prop :=
  h.bitrate = Derived.ofExact (bitrateOf cfg h.version h.layer h.bitrateIndex)
    ∧ h.samplingRate = Derived.ofExact (samplingRateOf cfg h.version h.srateIndex)
    ∧ h.frameSize = Derived.ofExact (frameSizeOf h.layer (bitrateOf cfg h.version h.layer h.bitrateIndex)
        (samplingRateOf cfg h.version h.srateIndex) h.padding.toNat)

/-- The stored header, if any, is coherent. -/
abbrev State.headerCoherent (s : State) : Prop := ∀ h ∈ s.fh, h.coherent s.config

/-- WMEM is in canonical form and lists only addresses it has (20_memory R51). -/
abbrev State.memoryLegal (s : State) : Prop := s.wmem.wf ∧ s.wmem.within s.config.wmemSize

/-- The machine's invariant. -/
abbrev State.Inv (s : State) : Prop :=
  s.config.wf ∧ s.memoryLegal ∧ s.outcomeLegal ∧ s.headerCoherent

end Sys2Proof.Machine
end

