-- ==== Sys2Proof/Certificates/Slice0/Obligations.lean ====
section
/-! DEFINITION. The statements for the provers. STATUS and RESULT words are written out from 60 R221; bytes of WMEM are
read with `Memory.read`. First the words the statements share, then one definition per statement. -/

namespace Sys2Proof.Claim

open Sys2Proof.Machine

/-- `s` with `a` as the host's next access. Every state whose host program is not empty has this form. -/
def before (a : HostAccess) (s : State) : State := { s with hostProgram := a :: s.hostProgram }

/-- `s` with a 32-bit write of `c` to CMD (offset 0x00) as the host's next access. -/
def beforeCmd (c : Word) (s : State) : State := before (.regWrite 32 0x00 c) s

/-- Byte `k` of the data window. -/
def data (s : State) (k : Nat) : Byte := s.wmem.read (s.dataBase.toNat + k)

/-- The conditions under which no argument test of EXTRACT fails (40_bitfield R102). -/
def extractReady (s : State) : Prop :=
  s.dataLen.toNat ≠ 0 ∧ s.dataBase.toNat + s.dataLen.toNat ≤ s.config.wmemSize
    ∧ 1 ≤ s.argB.toNat ∧ s.argB.toNat ≤ 32 ∧ s.argA.toNat + s.argB.toNat ≤ 8 * s.dataLen.toNat

/-- The conditions under which no argument test of SYNCSAFE fails (41_syncsafe R122). -/
def syncsafeReady (s : State) : Prop :=
  s.dataLen.toNat ≠ 0 ∧ s.dataBase.toNat + s.dataLen.toNat ≤ s.config.wmemSize
    ∧ s.argA.toNat + 4 ≤ s.dataLen.toNat

/-- Byte `i` of the four SYNCSAFE reads (41_syncsafe R121). -/
def syncByte (s : State) (i : Nat) : Byte := data s (s.argA.toNat + i)

/-- The conditions under which no argument test of FIND_MASKED or FIND_BYTES fails (42_search R141, R151). -/
def searchReady : Instr → State → Prop
  | .findMasked, s =>
    s.dataLen.toNat ≠ 0 ∧ s.patLen.toNat ≠ 0 ∧ s.maskLen = s.patLen
      ∧ s.dataBase.toNat + s.dataLen.toNat ≤ s.config.wmemSize
      ∧ s.patBase.toNat + s.patLen.toNat ≤ s.config.wmemSize
      ∧ s.maskBase.toNat + s.maskLen.toNat ≤ s.config.wmemSize
      ∧ s.argA.toNat < s.dataLen.toNat
  | .findBytes, s =>
    s.dataLen.toNat ≠ 0 ∧ s.patLen.toNat ≠ 0
      ∧ s.dataBase.toNat + s.dataLen.toNat ≤ s.config.wmemSize
      ∧ s.patBase.toNat + s.patLen.toNat ≤ s.config.wmemSize
      ∧ s.argA.toNat < s.dataLen.toNat
  | _, _ => False

/-- The mask byte of pattern position `k`: the mask window's for FIND_MASKED, 0xFF otherwise (42_search R150). -/
def searchMask (i : Instr) (s : State) (k : Nat) : Byte :=
  if i = .findMasked then s.wmem.read (s.maskBase.toNat + k) else 0xFF#8

/-- Data byte `d` matches pattern position `k` (42_search R142). -/
abbrev positionMatches (i : Instr) (s : State) (d : Byte) (k : Nat) : Prop :=
  d &&& searchMask i s k = s.wmem.read (s.patBase.toNat + k)

/-- Every pattern position matches at data offset `j` (42_search R144). -/
def allMatch (i : Instr) (s : State) (j : Nat) : Prop :=
  ∀ k, k < s.patLen.toNat → positionMatches i s (data s (j + k)) k

/-- A search that ends OK with offset `j` (42_search R140, R150). -/
def foundAt (i : Instr) (s : State) (j : Nat) : State :=
  { s with status := if i = .findMasked then 0x300#32 else 0x400#32, result := BitVec.ofNat 32 j }

/-- A search that ends NOT_FOUND (42_search R140, R150). -/
def notFound (i : Instr) (s : State) : State :=
  { s with status := if i = .findMasked then 0x302#32 else 0x402#32, result := 0xFFFFFFFF#32 }

/-- The running match-length counter of the literal scan after `n` data bytes from the start offset: it goes up on a
match and back to 0 on a mismatch, whose byte is not tested again (42_search R143). -/
def matchedAfter (i : Instr) (s : State) : Nat → Nat
  | 0 => 0
  | n + 1 =>
    if positionMatches i s (data s (s.argA.toNat + n)) (matchedAfter i s n) then matchedAfter i s n + 1 else 0

/-- The big-endian value H of the 4 header bytes at the cursor (43_mpeg R172). -/
def headerWord (s : State) : Word :=
  s.wmem.read (s.srcBase.toNat + s.srcPos.toNat) ++ s.wmem.read (s.srcBase.toNat + s.srcPos.toNat + 1)
    ++ s.wmem.read (s.srcBase.toNat + s.srcPos.toNat + 2) ++ s.wmem.read (s.srcBase.toNat + s.srcPos.toNat + 3)

/-- `H[hi:lo]` as a number, by its offset and width (43_mpeg R172). -/
def field (H : Word) (off n : Nat) : Nat := (H.toNat >>> off) % 2 ^ n

/-- The conditions under which MPEG_DECODE succeeds (43_mpeg R170): window, four bytes at the cursor, sync word,
mapped version, mapped layer. -/
def mpegReady (s : State) : Prop :=
  s.srcBase.toNat + s.srcLen.toNat ≤ s.config.wmemSize ∧ s.srcPos.toNat + 4 ≤ s.srcLen.toNat
    ∧ field (headerWord s) 21 11 = 0x7FF ∧ field (headerWord s) 19 2 ≠ 1 ∧ field (headerWord s) 17 2 ≠ 0

/-- The version of a version field: 3→1, 2→2, 0→3 (43_mpeg R174). -/
def versionNumber (H : Word) : Nat :=
  if field H 19 2 = 3 then 1 else if field H 19 2 = 2 then 2 else 3

/-- The layer of a layer field: 3→1, 2→2, 1→3 (43_mpeg R174). -/
def layerNumber (H : Word) : Nat :=
  if field H 17 2 = 3 then 1 else if field H 17 2 = 2 then 2 else 3

/-- The `BITRATE_TABLE` cell a header selects (43_mpeg R183, R191). -/
def bitrateCell (cfg : Config) (H : Word) : Option Nat := do
  let row ← cfg.bitrateTable[if versionNumber H = 1 then layerNumber H - 1
    else if layerNumber H = 1 then 3 else 4]?
  let cell ← row[field H 12 4]?
  cell.map (·.val)

/-- The `SRATE_TABLE` cell a header selects (43_mpeg R183, R192). -/
def srateCell (cfg : Config) (H : Word) : Option Nat := do
  let row ← cfg.srateTable[versionNumber H - 1]?
  let cell ← row[field H 10 2]?
  cell.map (·.val)

/-- The register view of a derived value: `v` itself, or 0x80000000 for ERR (43_mpeg R190). -/
def derivedView : Option Nat → Nat
  | none => 0x80000000
  | some v => v

/-- The frame size of 43_mpeg R193. -/
def frameSize (layer : Nat) (br sr : Option Nat) (pad : Nat) : Option Nat :=
  match br, sr with
  | some b, some r => if r = 0 then none else some (if layer = 1 then ((12 * b) / r + pad) * 4 else (144 * b) / r + pad)
  | _, _ => none

/-- A failed MPEG_DECODE with STATUS `st` (43_mpeg R177). -/
def decodeFailed (s : State) (st : Word) : State := { s with status := st, result := 0xFFFFFFFF#32, fh := none }

/-- The WMEM addresses a command's windows name (20_memory R54, 30_encoding R75). -/
def named (i : Instr) (s : State) (a : Nat) : Prop :=
  match i with
  | .extract | .syncsafe => s.dataBase.toNat ≤ a ∧ a < s.dataBase.toNat + s.dataLen.toNat
  | .findMasked =>
    (s.dataBase.toNat ≤ a ∧ a < s.dataBase.toNat + s.dataLen.toNat)
      ∨ (s.patBase.toNat ≤ a ∧ a < s.patBase.toNat + s.patLen.toNat)
      ∨ (s.maskBase.toNat ≤ a ∧ a < s.maskBase.toNat + s.maskLen.toNat)
  | .findBytes =>
    (s.dataBase.toNat ≤ a ∧ a < s.dataBase.toNat + s.dataLen.toNat)
      ∨ (s.patBase.toNat ≤ a ∧ a < s.patBase.toNat + s.patLen.toNat)
  | .mpegDecode => s.srcBase.toNat ≤ a ∧ a < s.srcBase.toNat + s.srcLen.toNat

/-- The eleven read-write registers (10_state R22). -/
def readWriteRegs : List Reg :=
  [.argA, .argB, .dataBase, .dataLen, .patBase, .patLen, .maskBase, .maskLen, .srcBase, .srcLen, .srcPos]

/-- The offsets of 10_state R20 that hold a register. -/
def registerOffsets : List Nat :=
  [0x00, 0x04, 0x08, 0x10, 0x14, 0x20, 0x24, 0x28, 0x2C, 0x30, 0x34, 0x40, 0x44, 0x48, 0x50, 0x54, 0x58, 0x5C]

/-- The accesses of a pseudo-instruction placed as the host's next accesses. -/
def beforePseudo (p : Pseudo) (s : State) : State :=
  { s with hostProgram := p.expand.map Stmt.access ++ s.hostProgram }

end Sys2Proof.Claim

open Sys2Proof Sys2Proof.Machine Sys2Proof.Claim

/-! Decoding and encoding -/

/-- The five complete command words (30_encoding R72) decode to their commands, and the encoder gives them back. -/
def Obligations.TableWordsDecodeAndEncode : Prop :=
  (decode 0x00000001#32 = .ok .extract ∧ decode 0x00000002#32 = .ok .syncsafe
    ∧ decode 0x00000003#32 = .ok .findMasked ∧ decode 0x00000004#32 = .ok .findBytes
    ∧ decode 0x00000005#32 = .ok .mpegDecode)
  ∧ (encode .extract = 0x00000001#32 ∧ encode .syncsafe = 0x00000002#32 ∧ encode .findMasked = 0x00000003#32
    ∧ encode .findBytes = 0x00000004#32 ∧ encode .mpegDecode = 0x00000005#32)

/-- Each command has exactly one word, and that word decodes to it (30_encoding R72, R76). -/
def Obligations.DecodeInvertsEncode : Prop :=
  ∀ (c : Word) (i : Instr), decode c = .ok i ↔ c = encode i

/-- 30_encoding R71: the decode order of a CMD write, and STATUS.OPC in every case. -/
def Obligations.CommandWordDecodeOrder : Prop :=
  ∀ (c : Word) (s : State),
    (if c.toNat / 16 ≠ 0 then
      step (beforeCmd c s)
        = .next { s with status := BitVec.ofNat 32 (0xD5 + 256 * (c.toNat % 16)), result := 0xFFFFFFFF#32 }
    else if c.toNat % 16 = 1 then step (beforeCmd c s) = exec .extract s
    else if c.toNat % 16 = 2 then step (beforeCmd c s) = exec .syncsafe s
    else if c.toNat % 16 = 3 then step (beforeCmd c s) = exec .findMasked s
    else if c.toNat % 16 = 4 then step (beforeCmd c s) = exec .findBytes s
    else if c.toNat % 16 = 5 then step (beforeCmd c s) = exec .mpegDecode s
    else step (beforeCmd c s)
        = .next { s with status := BitVec.ofNat 32 (0xC5 + 256 * (c.toNat % 16)), result := 0xFFFFFFFF#32 })
    ∧ ∃ t, step (beforeCmd c s) = .next t ∧ (t.status.toNat / 256) % 16 = c.toNat % 16

/-- 30_encoding R74: a set reserved bit makes any word illegal, whatever its OPC; STATUS and RESULT only. -/
def Obligations.ReservedBitsMakeWordIllegal : Prop :=
  ∀ (c : Word) (s : State) (b : Nat), 4 ≤ b → c.getLsbD b = true →
    step (beforeCmd c s)
      = .next { s with status := 0x000000D5#32 ||| (c &&& 0xF#32) <<< 8, result := 0xFFFFFFFF#32 }

/-- A write to CMD of a word that decodes runs that command on the state after the access is taken off the host's
program; a word that does not decode writes STATUS and RESULT (10_state R23, 30_encoding R71, 60 R222). -/
def Obligations.StepRunsDecodedCommand : Prop :=
  ∀ (c : Word) (s : State),
    (∀ i, decode c = .ok i → step (beforeCmd c s) = exec i s)
    ∧ (decode c = .error .reservedCmdBits → ∃ st, step (beforeCmd c s)
        = .next { s with status := st, result := 0xFFFFFFFF#32 } ∧ statusCause st = 13#4)
    ∧ (decode c = .error .badOpcode → ∃ st, step (beforeCmd c s)
        = .next { s with status := st, result := 0xFFFFFFFF#32 } ∧ statusCause st = 12#4)

/-- Every command word, legal or not, on every state, ends with a next state whose STATUS is not the reset value,
carries the word's OPC field and has its reserved bits 0 (10_state R24, 30_encoding R80, 60 R230, R231, 70 R253). -/
def Obligations.EveryCommandWordCompletes : Prop :=
  ∀ (c : Word) (s : State), ∃ t, step (beforeCmd c s) = .next t ∧ t.status ≠ 0#32
    ∧ t.status.extractLsb' 8 4 = c.extractLsb' 0 4
    ∧ t.status.getLsbD 3 = false ∧ t.status.extractLsb' 12 20 = 0#20

/-! EXTRACT -/

/-- 40_bitfield R102: EXTRACT's argument tests, in order; otherwise it ends OK. -/
def Obligations.ExtractTestsInOrder : Prop :=
  ∀ s : State,
    if s.dataLen.toNat = 0 then
      exec .extract s = .next { s with status := 0x111#32, result := 0xFFFFFFFF#32 }
    else if s.dataBase.toNat + s.dataLen.toNat > s.config.wmemSize then
      exec .extract s = .next { s with status := 0x121#32, result := 0xFFFFFFFF#32 }
    else if s.argB.toNat < 1 ∨ s.argB.toNat > 32 then
      exec .extract s = .next { s with status := 0x131#32, result := 0xFFFFFFFF#32 }
    else if s.argA.toNat + s.argB.toNat > 8 * s.dataLen.toNat then
      exec .extract s = .next { s with status := 0x141#32, result := 0xFFFFFFFF#32 }
    else ∃ v, exec .extract s = .next { s with status := 0x100#32, result := v }

/-- 40_bitfield R105: both equivalent forms of EXTRACT's value, bit by bit and from the window's little-endian value,
on every input that passes the tests. -/
def Obligations.ExtractEquivalentForms : Prop :=
  ∀ s : State, extractReady s → ∃ v : Word,
    exec .extract s = .next { s with status := 0x100#32, result := v }
    ∧ v.toNat = ∑ j ∈ Finset.range s.argB.toNat,
        (((data s ((s.argA.toNat + j) / 8)).toNat >>> ((s.argA.toNat + j) % 8)) &&& 1) <<< j
    ∧ v.toNat = ((∑ b ∈ Finset.range s.dataLen.toNat, (data s b).toNat <<< (8 * b)) >>> s.argA.toNat)
        &&& ((1 <<< s.argB.toNat) - 1)

/-- 40_bitfield R106, last item: EXTRACT's outcome depends on no WMEM byte outside `buf[lo .. hi]`. -/
def Obligations.ExtractReadsOnlyFieldBytes : Prop :=
  ∀ (s : State) (m : Memory),
    (∀ b, s.argA.toNat / 8 ≤ b → b ≤ (s.argA.toNat + s.argB.toNat - 1) / 8 →
      m.read (s.dataBase.toNat + b) = data s b) →
    ∃ st v, exec .extract s = .next { s with status := st, result := v }
      ∧ exec .extract { s with wmem := m } = .next { s with wmem := m, status := st, result := v }

/-- 40_bitfield R107: EXTRACT on four reversed bytes at (off, n) is the LSB-0 field of their big-endian value; the
value function gives it for n = 0 too. -/
def Obligations.ExtractOnReversedBytesIsBigEndianField : Prop :=
  ∀ (w0 w1 w2 w3 : Byte) (off n : Nat), off + n ≤ 32 →
    let be32 := (w0.toNat <<< 24) ||| (w1.toNat <<< 16) ||| (w2.toNat <<< 8) ||| w3.toNat
    (extractField (fun k => [w3, w2, w1, w0].getD k 0#8) off n).toNat = (be32 >>> off) &&& ((1 <<< n) - 1)
    ∧ ∀ s : State, 1 ≤ n → s.argA.toNat = off → s.argB.toNat = n → s.dataLen = 4#32 →
        s.dataBase.toNat + 4 ≤ s.config.wmemSize →
        data s 0 = w3 → data s 1 = w2 → data s 2 = w1 → data s 3 = w0 →
        ∃ v : Word, exec .extract s = .next { s with status := 0x100#32, result := v }
          ∧ v.toNat = (be32 >>> off) &&& ((1 <<< n) - 1)

/-! SYNCSAFE -/

/-- 41_syncsafe R122: SYNCSAFE's argument tests, in order; otherwise it ends OK. -/
def Obligations.SyncsafeTestsInOrder : Prop :=
  ∀ s : State,
    if s.dataLen.toNat = 0 then
      exec .syncsafe s = .next { s with status := 0x211#32, result := 0xFFFFFFFF#32 }
    else if s.dataBase.toNat + s.dataLen.toNat > s.config.wmemSize then
      exec .syncsafe s = .next { s with status := 0x221#32, result := 0xFFFFFFFF#32 }
    else if s.argA.toNat + 4 > s.dataLen.toNat then
      exec .syncsafe s = .next { s with status := 0x251#32, result := 0xFFFFFFFF#32 }
    else ∃ v, exec .syncsafe s = .next { s with status := 0x200#32, result := v }

/-- 41_syncsafe R121: SYNCSAFE's value, big-endian in 7-bit groups, exact. -/
def Obligations.SyncsafeValueIsBigEndianGroups : Prop :=
  ∀ s : State, syncsafeReady s → ∃ v : Word,
    exec .syncsafe s = .next { s with status := 0x200#32, result := v }
    ∧ v.toNat = ((syncByte s 0).toNat <<< 21) ||| ((syncByte s 1).toNat <<< 14)
        ||| ((syncByte s 2).toNat <<< 7) ||| (syncByte s 3).toNat

/-- 41_syncsafe R123: neither validated nor masked. The range with and without set MSBs, where each byte's bit 7
lands, and two inputs with one result. -/
def Obligations.SyncsafeRangeAndUnmaskedBits : Prop :=
  (∀ s : State, syncsafeReady s → ∃ v : Word,
    exec .syncsafe s = .next { s with status := 0x200#32, result := v }
    ∧ v.toNat < 2 ^ 29
    ∧ ((∀ i, i < 4 → (syncByte s i).getLsbD 7 = false) → v.toNat < 2 ^ 28)
    ∧ v.getLsbD 28 = (syncByte s 0).getLsbD 7
    ∧ ∀ i, 1 ≤ i → i ≤ 3 →
        v.getLsbD (7 * (4 - i)) = ((syncByte s i).getLsbD 7 || (syncByte s (i - 1)).getLsbD 0))
  ∧ ∃ s s' t t' : State, syncsafeReady s ∧ syncsafeReady s' ∧ syncByte s 3 ≠ syncByte s' 3
      ∧ exec .syncsafe s = .next t ∧ exec .syncsafe s' = .next t' ∧ t.result = t'.result

/-- On bytes whose MSBs are clear, as the producing format defines them, SYNCSAFE loses nothing: equal results come
from equal bytes (41_syncsafe R121, R123). -/
def Obligations.SyncsafeInjectiveOnClearBytes : Prop :=
  ∀ s s' : State, syncsafeReady s → syncsafeReady s' →
    (∀ i, i < 4 → (syncByte s i).getLsbD 7 = false) → (∀ i, i < 4 → (syncByte s' i).getLsbD 7 = false) →
    ∃ t t', exec .syncsafe s = .next t ∧ exec .syncsafe s' = .next t'
      ∧ (t.result = t'.result → ∀ i, i < 4 → syncByte s i = syncByte s' i)

/-! FIND_MASKED and FIND_BYTES -/

/-- 42_search R141: FIND_MASKED's argument tests, in order. A pattern longer than the data is no argument error: the
scan runs and ends NOT_FOUND. -/
def Obligations.FindMaskedTestsInOrder : Prop :=
  ∀ s : State,
    if s.dataLen.toNat = 0 then
      exec .findMasked s = .next { s with status := 0x311#32, result := 0xFFFFFFFF#32 }
    else if s.patLen.toNat = 0 then
      exec .findMasked s = .next { s with status := 0x311#32, result := 0xFFFFFFFF#32 }
    else if s.maskLen.toNat ≠ s.patLen.toNat then
      exec .findMasked s = .next { s with status := 0x361#32, result := 0xFFFFFFFF#32 }
    else if s.dataBase.toNat + s.dataLen.toNat > s.config.wmemSize then
      exec .findMasked s = .next { s with status := 0x321#32, result := 0xFFFFFFFF#32 }
    else if s.patBase.toNat + s.patLen.toNat > s.config.wmemSize then
      exec .findMasked s = .next { s with status := 0x321#32, result := 0xFFFFFFFF#32 }
    else if s.maskBase.toNat + s.maskLen.toNat > s.config.wmemSize then
      exec .findMasked s = .next { s with status := 0x321#32, result := 0xFFFFFFFF#32 }
    else if s.argA.toNat ≥ s.dataLen.toNat then
      exec .findMasked s = .next { s with status := 0x371#32, result := 0xFFFFFFFF#32 }
    else if s.patLen.toNat > s.dataLen.toNat then
      exec .findMasked s = .next { s with status := 0x302#32, result := 0xFFFFFFFF#32 }
    else (∃ v, exec .findMasked s = .next { s with status := 0x300#32, result := v })
      ∨ exec .findMasked s = .next { s with status := 0x302#32, result := 0xFFFFFFFF#32 }

/-- 42_search R151: FIND_BYTES's argument tests, in order: those of FIND_MASKED with the mask tests left out. -/
def Obligations.FindBytesTestsInOrder : Prop :=
  ∀ s : State,
    if s.dataLen.toNat = 0 then
      exec .findBytes s = .next { s with status := 0x411#32, result := 0xFFFFFFFF#32 }
    else if s.patLen.toNat = 0 then
      exec .findBytes s = .next { s with status := 0x411#32, result := 0xFFFFFFFF#32 }
    else if s.dataBase.toNat + s.dataLen.toNat > s.config.wmemSize then
      exec .findBytes s = .next { s with status := 0x421#32, result := 0xFFFFFFFF#32 }
    else if s.patBase.toNat + s.patLen.toNat > s.config.wmemSize then
      exec .findBytes s = .next { s with status := 0x421#32, result := 0xFFFFFFFF#32 }
    else if s.argA.toNat ≥ s.dataLen.toNat then
      exec .findBytes s = .next { s with status := 0x471#32, result := 0xFFFFFFFF#32 }
    else (∃ v, exec .findBytes s = .next { s with status := 0x400#32, result := v })
      ∨ exec .findBytes s = .next { s with status := 0x402#32, result := 0xFFFFFFFF#32 }

/-- 42_search R144, R145: with SEARCH_MODE = NAIVE both searches report the smallest offset at or after the start at
which every pattern position matches, exactly, counted from `data[0]`; and NOT_FOUND where there is none. -/
def Obligations.NaiveSearchFindsFirstMatch : Prop :=
  ∀ (i : Instr) (s : State), searchReady i s → s.config.searchMode = .naive →
    (∀ j, s.argA.toNat ≤ j → j + s.patLen.toNat ≤ s.dataLen.toNat → allMatch i s j →
      (∀ j', s.argA.toNat ≤ j' → j' < j → ¬ allMatch i s j') →
      exec i s = .next (foundAt i s j) ∧ (foundAt i s j).result.toNat = j)
    ∧ ((∀ j, s.argA.toNat ≤ j → j + s.patLen.toNat ≤ s.dataLen.toNat → ¬ allMatch i s j) →
      exec i s = .next (notFound i s))

/-- 42_search R143: with SEARCH_MODE = LITERAL both searches run the source's counter and report where it first
reaches the pattern's length, a match ending at the last data byte included; and NOT_FOUND where it never does. -/
def Obligations.LiteralSearchRunsMatchCounter : Prop :=
  ∀ (i : Instr) (s : State), searchReady i s → s.config.searchMode = .literal →
    (∀ n, n ≤ s.dataLen.toNat - s.argA.toNat → matchedAfter i s n = s.patLen.toNat →
      (∀ n', n' < n → matchedAfter i s n' ≠ s.patLen.toNat) →
      exec i s = .next (foundAt i s (s.argA.toNat + n - s.patLen.toNat))
      ∧ (foundAt i s (s.argA.toNat + n - s.patLen.toNat)).result.toNat = s.argA.toNat + n - s.patLen.toNat)
    ∧ ((∀ n, n ≤ s.dataLen.toNat - s.argA.toNat → matchedAfter i s n ≠ s.patLen.toNat) →
      exec i s = .next (notFound i s))

/-- 42_search R146, soundness: an offset LITERAL reports lies between the start and N - P, every pattern position
matches there, and NAIVE on the same state finds a match no later. -/
def Obligations.LiteralSearchIsSound : Prop :=
  ∀ (i : Instr) (s : State), searchReady i s → s.config.searchMode = .literal →
    (∃ j j', exec i s = .next (foundAt i s j) ∧ s.argA.toNat ≤ j
      ∧ j + s.patLen.toNat ≤ s.dataLen.toNat ∧ allMatch i s j ∧ j' ≤ j
      ∧ exec i { s with config := { s.config with searchMode := .naive } }
        = .next (foundAt i { s with config := { s.config with searchMode := .naive } } j'))
    ∨ exec i s = .next (notFound i s)

/-- 42_search R146: for a pattern of one byte the two scans give one outcome on every input. -/
def Obligations.SearchModesAgreeOnOneByte : Prop :=
  ∀ (i : Instr) (s : State) (m m' : SearchMode), searchReady i s → s.patLen = 1#32 →
    ∃ st v, exec i { s with config := { s.config with searchMode := m } }
        = .next { s with config := { s.config with searchMode := m }, status := st, result := v }
      ∧ exec i { s with config := { s.config with searchMode := m' } }
        = .next { s with config := { s.config with searchMode := m' }, status := st, result := v }

/-- 42_search R146: fewer data bytes from the start than the pattern has end NOT_FOUND in both modes. -/
def Obligations.SearchOfShortDataIsNotFound : Prop :=
  ∀ (i : Instr) (s : State), searchReady i s → s.dataLen.toNat - s.argA.toNat < s.patLen.toNat →
    exec i s = .next (notFound i s)

/-- A pattern that matches at the start offset is reported there in both modes (42_search R147, generalising its
second item to every start offset). -/
def Obligations.MatchAtStartIsReported : Prop :=
  ∀ (i : Instr) (s : State), searchReady i s → s.argA.toNat + s.patLen.toNat ≤ s.dataLen.toNat →
    allMatch i s s.argA.toNat → exec i s = .next (foundAt i s s.argA.toNat)

/-- 42_search R152: on every register state whose mask window holds PAT_LEN bytes of 0xFF and is in range, FIND_BYTES
and FIND_MASKED write the same KIND, CAUSE and RESULT; only OPC differs. -/
def Obligations.FindBytesIsFindMaskedWithOnes : Prop :=
  ∀ s : State, s.maskLen = s.patLen → s.maskBase.toNat + s.maskLen.toNat ≤ s.config.wmemSize →
    (∀ k, k < s.patLen.toNat → s.wmem.read (s.maskBase.toNat + k) = 0xFF#8) →
    ∃ (kind : BitVec 3) (cause : BitVec 4) (v : Word),
      exec .findMasked s = .next { s with
        status := BitVec.ofNat 32 (kind.toNat + 16 * cause.toNat + 256 * 3), result := v }
      ∧ exec .findBytes s = .next { s with
        status := BitVec.ofNat 32 (kind.toNat + 16 * cause.toNat + 256 * 4), result := v }

/-- FIND_BYTES reads neither MASK_BASE nor MASK_LEN (10_state R30, 42_search R150). -/
def Obligations.FindBytesIgnoresMaskRegisters : Prop :=
  ∀ (s : State) (base len : Word), ∃ st v,
    exec .findBytes s = .next { s with status := st, result := v }
    ∧ exec .findBytes { s with maskBase := base, maskLen := len }
      = .next { s with maskBase := base, maskLen := len, status := st, result := v }

/-! MPEG_DECODE -/

/-- 43_mpeg R171, R173, R177: MPEG_DECODE's failures in the order of R170, each clearing FH, writing the sentinel and
leaving SRC_POS; otherwise it ends OK. -/
def Obligations.MpegFailuresInOrder : Prop :=
  ∀ s : State,
    if s.srcBase.toNat + s.srcLen.toNat > s.config.wmemSize then
      exec .mpegDecode s = .next (decodeFailed s 0x521#32)
    else if s.srcLen.toNat < s.srcPos.toNat + 4 then
      exec .mpegDecode s = .next (decodeFailed s 0x5B4#32)
    else if field (headerWord s) 21 11 ≠ 0x7FF then
      exec .mpegDecode s = .next (decodeFailed s 0x583#32)
    else if field (headerWord s) 19 2 = 1 then
      exec .mpegDecode s = .next (decodeFailed s 0x593#32)
    else if field (headerWord s) 17 2 = 0 then
      exec .mpegDecode s = .next (decodeFailed s 0x5A3#32)
    else ∃ h, exec .mpegDecode s = .next { s with
      status := 0x500#32, result := 0#32, fh := some h, srcPos := BitVec.ofNat 32 (s.srcPos.toNat + 4) }

/-- A successful MPEG_DECODE: the packed FH_FIELDS word of 43_mpeg R176 from the fields of R172, with the version and
layer maps of R174, the inverted protection bit of R178 and the unchanged channel mode of R179. -/
def Obligations.MpegDecodePacksHeaderFields : Prop :=
  ∀ s : State, mpegReady s → ∃ t, exec .mpegDecode s = .next t ∧ t.status = 0x500#32 ∧ t.result = 0#32
    ∧ (t.readReg .fhFields).toNat = 1 + versionNumber (headerWord s) * 2 + layerNumber (headerWord s) * 8
        + (1 - field (headerWord s) 16 1) * 32 + field (headerWord s) 12 4 * 64
        + field (headerWord s) 10 2 * 1024 + field (headerWord s) 9 1 * 4096 + field (headerWord s) 6 2 * 8192

/-- A successful MPEG_DECODE: FH_BITRATE and FH_SRATE from the cells the header selects, 1000 times the bitrate cell
and the sampling-rate cell itself, or ERR for an INVALID cell; exact, for every configuration
(43_mpeg R183, R190 to R192, R196). -/
def Obligations.MpegDecodeLooksUpRates : Prop :=
  ∀ s : State, mpegReady s → ∃ t, exec .mpegDecode s = .next t
    ∧ (t.readReg .fhBitrate).toNat = derivedView ((bitrateCell s.config (headerWord s)).map (· * 1000))
    ∧ (t.readReg .fhSrate).toNat = derivedView (srateCell s.config (headerWord s))

/-- 43_mpeg R193: FH_FSIZE, exact, for every configuration: the layer 1 and the layer 2 or 3 formula, ERR when a
factor is ERR or the sampling rate is 0. -/
def Obligations.MpegDecodeComputesFrameSize : Prop :=
  ∀ s : State, mpegReady s → ∃ t, exec .mpegDecode s = .next t
    ∧ (t.readReg .fhFsize).toNat = derivedView (frameSize (layerNumber (headerWord s))
        ((bitrateCell s.config (headerWord s)).map (· * 1000)) (srateCell s.config (headerWord s))
        (field (headerWord s) 9 1))

/-- 43_mpeg R175: the cursor advances by 4 exactly on success, without passing SRC_LEN, and keeps its value on every
failure. -/
def Obligations.MpegCursorAdvancesOnSuccessOnly : Prop :=
  ∀ s : State, ∃ t, exec .mpegDecode s = .next t
    ∧ (t.status.toNat % 8 = 0 → t.srcPos.toNat = s.srcPos.toNat + 4 ∧ t.srcPos.toNat ≤ s.srcLen.toNat)
    ∧ (t.status.toNat % 8 ≠ 0 → t.srcPos = s.srcPos)

/-- The invariant of 10_state R37: after command word 0x00000005, PARSED = 1 exactly when KIND = OK, and Seeking
reads four zero words; an illegal word whose OPC field is 5 changes no FH register (60 R222). -/
def Obligations.ParsedExactlyAfterOkDecode : Prop :=
  ∀ s : State,
    (∃ t, step (beforeCmd 0x00000005#32 s) = .next t
      ∧ ((t.readReg .fhFields).getLsbD 0 = true ↔ t.status.toNat % 8 = 0)
      ∧ (t.status.toNat % 8 ≠ 0 → t.readReg .fhFields = 0#32 ∧ t.readReg .fhBitrate = 0#32
        ∧ t.readReg .fhSrate = 0#32 ∧ t.readReg .fhFsize = 0#32))
    ∧ ∀ c : Word, c.toNat % 16 = 5 → c ≠ 0x00000005#32 → ∃ t, step (beforeCmd c s) = .next t ∧ t.fh = s.fh

/-- Header bits 8 and 5..0 affect no register and no outcome (43_mpeg R172, 93 I13). -/
def Obligations.MpegIgnoresUnreadHeaderBits : Prop :=
  ∀ (s : State) (m : Memory),
    headerWord { s with wmem := m } &&& 0xFFFFFEC0#32 = headerWord s &&& 0xFFFFFEC0#32 →
    ∃ t, exec .mpegDecode s = .next t ∧ exec .mpegDecode { s with wmem := m } = .next { t with wmem := m }

/-- With the default tables no frame size exceeds 2881, and header FF E3 EA 00 reaches it (43_mpeg R196). -/
def Obligations.DefaultTablesFrameSizeBound : Prop :=
  (∀ s : State, s.config.bitrateTable = defaultBitrateTable → s.config.srateTable = defaultSrateTable →
    mpegReady s → ∃ t, exec .mpegDecode s = .next t
      ∧ ((t.readReg .fhFsize).toNat ≤ 2881 ∨ t.readReg .fhFsize = 0x80000000#32))
  ∧ ∃ s t : State, headerWord s = 0xFFE3EA00#32 ∧ s.config = defaultConfig
      ∧ exec .mpegDecode s = .next t ∧ (t.readReg .fhFsize).toNat = 2881

/-! What commands leave unchanged -/

/-- EXTRACT, SYNCSAFE, FIND_MASKED and FIND_BYTES write STATUS and RESULT and nothing else: every other register,
the frame header and every byte of WMEM stay (10_state R22, 20_memory R53). -/
def Obligations.RegisterCommandsWriteOnlyOutcome : Prop :=
  ∀ (i : Instr) (s : State), i ≠ .mpegDecode →
    ∃ t, exec i s = .next t ∧ t = { s with status := t.status, result := t.result }
      ∧ ∀ a, t.wmem.read a = s.wmem.read a

/-- MPEG_DECODE writes STATUS, RESULT, FH and, by 0 or 4, SRC_POS, and nothing else: every other register and every
byte of WMEM stay (10_state R22, 20_memory R53). -/
def Obligations.MpegDecodeWritesOnlyItsRegisters : Prop :=
  ∀ s : State, ∃ t, exec .mpegDecode s = .next t
    ∧ t = { s with status := t.status, result := t.result, fh := t.fh, srcPos := t.srcPos }
    ∧ (t.srcPos = s.srcPos ∨ t.srcPos = s.srcPos + 4#32)
    ∧ ∀ a, t.wmem.read a = s.wmem.read a

/-- 60 R222: a failing command word of any kind writes STATUS and RESULT = 0xFFFFFFFF and nothing else, but for the
FH clearing of a failing MPEG_DECODE. -/
def Obligations.FailuresArePrecise : Prop :=
  ∀ (c : Word) (s : State), ∃ t, step (beforeCmd c s) = .next t
    ∧ (t.status.toNat % 8 ≠ 0 →
      (c ≠ 0x00000005#32 → t = { s with status := t.status, result := 0xFFFFFFFF#32 })
      ∧ (c = 0x00000005#32 → t = { s with status := t.status, result := 0xFFFFFFFF#32, fh := none }))

/-- 20_memory R53: no command word, legal or not, writes WMEM. -/
def Obligations.CommandsNeverWriteWmem : Prop :=
  ∀ (c : Word) (s : State), ∃ t, step (beforeCmd c s) = .next t ∧ t.wmem = s.wmem
    ∧ ∀ a, t.wmem.read a = s.wmem.read a

/-- A command's outcome depends on WMEM only through the bytes of the windows it names (20_memory R52, R54, R59). -/
def Obligations.CommandsDependOnlyOnNamedWindows : Prop :=
  ∀ (i : Instr) (s : State) (m : Memory), (∀ a, named i s a → m.read a = s.wmem.read a) →
    ∃ t, exec i s = .next t ∧ exec i { s with wmem := m } = .next { t with wmem := m }

/-- The outcome of a command word does not depend on the STATUS and RESULT before it: it overwrites both, and no
status bit is sticky (60 R223). -/
def Obligations.CommandsOverwriteOutcome : Prop :=
  ∀ (c : Word) (s : State) (st v : Word), ∃ t, step (beforeCmd c s) = .next t
    ∧ step (beforeCmd c { s with status := st, result := v }) = .next t

/-! Whole-machine rules over every step -/

/-- Only MPEG_DECODE and the platform reset change the frame header (10_state R33, R37, 70 R250). -/
def Obligations.OnlyDecodeAndResetChangeHeader : Prop :=
  ∀ (a : HostAccess) (s t : State), step (before a s) = .next t → t.fh ≠ s.fh →
    a = .regWrite 32 0x00 0x00000005#32 ∨ a = .platformReset

/-- Only a host write to SRC_POS, MPEG_DECODE and the platform reset change the stream cursor (10_state R32,
70 R250). -/
def Obligations.OnlySeekDecodeAndResetMoveCursor : Prop :=
  ∀ (a : HostAccess) (s t : State), step (before a s) = .next t → t.srcPos ≠ s.srcPos →
    (∃ v, a = .regWrite 32 0x48 v) ∨ a = .regWrite 32 0x00 0x00000005#32 ∨ a = .platformReset

/-- Only a host write of WMEM changes WMEM, and then only the bytes it names: every other access, the platform reset
included, leaves every byte (20_memory R51, R53, 10_state R43). -/
def Obligations.OnlyHostWritesChangeWmem : Prop :=
  ∀ (a : HostAccess) (s t : State), step (before a s) = .next t →
    (∀ addr bytes, a = .wmemWrite addr bytes → ∀ x, x < addr ∨ addr + bytes.length ≤ x →
      t.wmem.read x = s.wmem.read x)
    ∧ ((∀ addr bytes, a ≠ .wmemWrite addr bytes) → t.wmem = s.wmem)

/-- Every step with a host access takes exactly that access, in the host's order, and no step changes the
configuration or its tables (00_scope R6, 10_state R40, 20_memory R62). The configuration's place in State and the
host program are the model's (log entries 1 and 3). -/
def Obligations.StepTakesOneAccessAndKeepsConfig : Prop :=
  ∀ (a : HostAccess) (s t : State), step (before a s) = .next t →
    t.hostProgram = s.hostProgram ∧ t.config = s.config

/-- A step with no host access waiting leaves the machine as it is (60 R237, 70 R251; log entry 2). -/
def Obligations.IdleStepHoldsState : Prop :=
  ∀ s : State, s.hostProgram = [] → step s = .next s

/-- A step stops exactly on a host access the interface does not define: refused for a register access that is not
32-bit, aligned and below 0x100 (20_memory R50, 60 R230), a fault for WMEM bytes that do not exist (the model's
choice, log entries 7 and 9). No command stops. -/
def Obligations.StepStopsExactlyOnUndefinedAccess : Prop :=
  ∀ (a : HostAccess) (s : State),
    (a.defined s.config → ∃ t, step (before a s) = .next t)
    ∧ (¬ a.defined s.config →
      (∀ addr bytes, a = .wmemWrite addr bytes → step (before a s) = .fault .wmemAddress)
      ∧ ((∀ addr bytes, a ≠ .wmemWrite addr bytes) → ∃ r, step (before a s) = .refused r))

/-! Invariants every step keeps -/

/-- Every step keeps STATUS one of the words of 60 R221, RESULT the sentinel on every KIND but OK, 0 after a decode
and below 2^29 after SYNCSAFE (10_state R24, R25, 41_syncsafe R123). -/
def Obligations.StepKeepsOutcomeLegal : Prop :=
  ∀ s t : State, s.outcomeLegal → step s = .next t → t.outcomeLegal

/-- Every step keeps WMEM in canonical form, listing only addresses WMEM has (20_memory R51; the form is the
model's). -/
def Obligations.StepKeepsMemoryLegal : Prop :=
  ∀ s t : State, s.memoryLegal → step s = .next t → t.memoryLegal

/-- Every step keeps the stored header's derived values in agreement with its own stored version, layer, indices and
padding under the tables (43_mpeg R176, R191 to R193). That no stored field is left over from an earlier header is
MpegDecodeReplacesWholeHeader. -/
def Obligations.StepKeepsHeaderCoherent : Prop :=
  ∀ s t : State, s.headerCoherent → step s = .next t → t.headerCoherent

/-- The reset state meets the whole invariant, the default configuration's constraints (43_mpeg R182) included. -/
def Obligations.ResetMeetsInvariants : Prop := State.reset.Inv

/-! Registers, WMEM and reset -/

/-- 10_state R43: every register reads 0 at reset, and the decoder is in Seeking. -/
def Obligations.ResetStateRegistersAreZero : Prop :=
  (∀ r : Reg, State.reset.readReg r = 0#32) ∧ State.reset.fh = none

/-- 70 R250: after the platform reset, from any state, every register reads 0 and the decoder is in Seeking; WMEM and
the tables are not touched. -/
def Obligations.PlatformResetClearsRegisters : Prop :=
  ∀ s : State, ∃ t, step (before .platformReset s) = .next t
    ∧ (∀ r : Reg, t.readReg r = 0#32) ∧ t.fh = none ∧ t.wmem = s.wmem ∧ t.config = s.config

/-- A 32-bit host write to a read-write register replaces it whole and leaves every other register, the header and
WMEM; the host then reads the value back (10_state R22, 20_memory R50). -/
def Obligations.RegisterWriteReadsBack : Prop :=
  ∀ (s : State) (r : Reg) (v : Word), r ∈ readWriteRegs →
    ∃ t, step (before (.regWrite 32 r.offset v) s) = .next t
      ∧ (∀ r' : Reg, t.readReg r' = if r' = r then v else s.readReg r')
      ∧ t.fh = s.fh ∧ t.wmem = s.wmem
      ∧ ∃ u, step (before (.regRead 32 r.offset) t) = .next u ∧ u.readData = some v

/-- 10_state R38: reserved offsets read 0 and ignore writes, read-only registers ignore writes, and the reserved bits
of FH_FIELDS (in every state) and of STATUS (in every state whose STATUS the block can hold) read 0. -/
def Obligations.ReservedAndReadOnlyWritesIgnored : Prop :=
  ∀ (s : State) (v : Word),
    (∀ off, off < 0x100 → off % 4 = 0 → off ∉ registerOffsets →
      step (before (.regWrite 32 off v) s) = .next s
      ∧ ∃ u, step (before (.regRead 32 off) s) = .next u ∧ u.readData = some 0#32)
    ∧ (∀ off ∈ [0x04, 0x08, 0x50, 0x54, 0x58, 0x5C], step (before (.regWrite 32 off v) s) = .next s)
    ∧ (s.readReg .fhFields).extractLsb' 15 17 = 0#17
    ∧ (legalStatus s.status → s.status.getLsbD 3 = false ∧ s.status.extractLsb' 12 20 = 0#20)

/-- A 32-bit read at each offset of 10_state R20 gets back that register, CMD reading 0 (R23), and changes nothing
else. -/
def Obligations.RegisterMapReads : Prop :=
  ∀ s : State, ∀ p ∈ [(0x00, 0#32), (0x04, s.status), (0x08, s.result), (0x10, s.argA), (0x14, s.argB),
      (0x20, s.dataBase), (0x24, s.dataLen), (0x28, s.patBase), (0x2C, s.patLen), (0x30, s.maskBase),
      (0x34, s.maskLen), (0x40, s.srcBase), (0x44, s.srcLen), (0x48, s.srcPos), (0x50, fhFieldsWord s.fh),
      (0x54, fhBitrateWord s.fh), (0x58, fhSrateWord s.fh), (0x5C, fhFsizeWord s.fh)],
    step (before (.regRead 32 p.1) s) = .next { s with readData := some p.2 }

/-- The register view of the frame header: four zero words in Seeking; otherwise the fields of 10_state R33 at their
bits and the ERR and VALUE of R34 to R36. -/
def Obligations.HeaderRegisterViews : Prop :=
  (∀ s : State, s.fh = none → s.readReg .fhFields = 0#32 ∧ s.readReg .fhBitrate = 0#32
    ∧ s.readReg .fhSrate = 0#32 ∧ s.readReg .fhFsize = 0#32)
  ∧ ∀ (s : State) (h : FrameHeader), s.fh = some h →
    (s.readReg .fhFields).getLsbD 0 = true
    ∧ ((s.readReg .fhFields).extractLsb' 1 2).toNat
        = (match h.version with | .v1 => 1 | .v2 => 2 | .v3 => 3)
    ∧ ((s.readReg .fhFields).extractLsb' 3 2).toNat
        = (match h.layer with | .l1 => 1 | .l2 => 2 | .l3 => 3)
    ∧ (s.readReg .fhFields).getLsbD 5 = h.isProtected
    ∧ (s.readReg .fhFields).extractLsb' 6 4 = h.bitrateIndex
    ∧ (s.readReg .fhFields).extractLsb' 10 2 = h.srateIndex
    ∧ (s.readReg .fhFields).extractLsb' 12 1 = h.padding
    ∧ ((s.readReg .fhFields).extractLsb' 13 2).toNat
        = (match h.channelMode with | .stereo => 0 | .jointStereo => 1 | .dualChannel => 2 | .singleChannel => 3)
    ∧ (s.readReg .fhFields).extractLsb' 15 17 = 0#17
    ∧ (∀ r d, (r, d) ∈ [(Reg.fhBitrate, h.bitrate), (Reg.fhSrate, h.samplingRate), (Reg.fhFsize, h.frameSize)] →
        (d = .err → s.readReg r = 0x80000000#32)
        ∧ ∀ v, d = .value v → (s.readReg r).getLsbD 31 = false ∧ (s.readReg r).extractLsb' 0 31 = v)

/-- A host write of WMEM bytes that exist, on a memory in canonical form (StepKeepsMemoryLegal): each address of the
write then reads its byte, every other address as before, and no register changes (20_memory R51, 70 R256). -/
def Obligations.WmemWriteReadsBack : Prop :=
  ∀ (s : State) (addr : Nat) (bytes : List Byte), s.memoryLegal → addr + bytes.length ≤ s.config.wmemSize →
    ∃ t, step (before (.wmemWrite addr bytes) s) = .next t
      ∧ (∀ a, t.wmem.read a
          = if addr ≤ a ∧ a < addr + bytes.length then bytes.getD (a - addr) 0#8 else s.wmem.read a)
      ∧ ∀ r : Reg, t.readReg r = s.readReg r

/-! Host programs -/

/-- Each pseudo-instruction of 30_encoding R82, run to its end, does what its command (or seek) does on the operands
it writes, with `start` 0 when it is left out. -/
def Obligations.PseudoInstructionsRun : Prop :=
  ∀ (s : State) (a b c d e f : Word) (start : Option Word),
    Sys2Proof.core.run 5 (beforePseudo (.extract a b c d) s)
      = exec .extract { s with dataBase := a, dataLen := b, argA := c, argB := d }
    ∧ Sys2Proof.core.run 4 (beforePseudo (.syncsafe a b c) s)
      = exec .syncsafe { s with dataBase := a, dataLen := b, argA := c }
    ∧ Sys2Proof.core.run 8 (beforePseudo (.findm a b c d e f start) s)
      = exec .findMasked { s with
          dataBase := a, dataLen := b, patBase := c, patLen := d, maskBase := e, maskLen := f, argA := start.getD 0#32 }
    ∧ Sys2Proof.core.run 6 (beforePseudo (.findb a b c d start) s)
      = exec .findBytes { s with dataBase := a, dataLen := b, patBase := c, patLen := d, argA := start.getD 0#32 }
    ∧ Sys2Proof.core.run 1 (beforePseudo (.seek a) s) = .next { s with srcPos := a }
    ∧ Sys2Proof.core.run 4 (beforePseudo (.mpeg a b c) s)
      = exec .mpegDecode { s with srcBase := a, srcLen := b, srcPos := c }

/-! The frame header as a whole -/

/-- MPEG_DECODE replaces the frame header as a whole: on every state, success and failure alike, the state it leaves
does not depend on the header stored before, so no field of an old one is left over (10_state R42, 43_mpeg R176,
R177). -/
def Obligations.MpegDecodeReplacesWholeHeader : Prop :=
  ∀ (s : State) (old : Option FrameHeader), ∃ t, exec .mpegDecode s = .next t
    ∧ exec .mpegDecode { s with fh := old } = .next t
end

