-- ==== Sys2Proof/Laws/BitField.lean ====
section
/-! SUPPORT. What the two byte-combining functions compute, bit by bit. -/

namespace Sys2Proof.Machine

/-- The accumulator over `n` bytes from `lo`: bit `j` is bit `j mod 8` of byte `lo + j / 8`. -/
theorem foldl_bytes_getLsbD (buf : Nat → Byte) (lo n j : Nat) :
    ((List.range n).foldl (fun acc k => acc ||| ((buf (lo + k)).setWidth 64 <<< (8 * k))) 0#64).getLsbD j
      = (decide (j < 64) && decide (j / 8 < n) && (buf (lo + j / 8)).getLsbD (j % 8)) := by
  induction n with
  | zero => simp
  | succ n ih =>
    rw [List.range_succ, List.foldl_append]
    simp only [List.foldl_cons, List.foldl_nil, BitVec.getLsbD_or, ih, BitVec.getLsbD_shiftLeft,
      BitVec.getLsbD_setWidth]
    by_cases hj : j < 64
    · rcases Nat.lt_trichotomy (j / 8) n with h | h | h
      · have h1 : j < 8 * n := by omega
        have h2 : j / 8 < n + 1 := by omega
        simp [hj, h, h1, h2]
      · have h1 : ¬ j < 8 * n := by omega
        have h2 : j - 8 * n = j % 8 := by omega
        have h3 : j % 8 < 64 := by omega
        simp [hj, h, h1, h2, h3]
      · have h1 : ¬ j / 8 < n := by omega
        have h2 : ¬ j / 8 < n + 1 := by omega
        have h3 : 8 ≤ j - 8 * n := by omega
        simp [h1, h2, BitVec.getLsbD_of_ge _ _ h3]
    · simp [hj]

/-- EXTRACT's value function, bit by bit: bit `j` is bitstream position `fb + j`, for `j` below the width
(40_bitfield R101, R105). -/
theorem extractField_getLsbD (buf : Nat → Byte) (fb ms j : Nat) (h : ms ≤ 32) :
    (extractField buf fb ms).getLsbD j
      = (decide (j < ms) && (buf ((fb + j) / 8)).getLsbD ((fb + j) % 8)) := by
  have hmask : ((1#64 <<< ms) - 1#64).getLsbD j = decide (j < ms) := by
    have h64 : (1#64 <<< ms - 1#64) = BitVec.ofNat 64 (2 ^ ms - 1) := by
      apply BitVec.eq_of_toNat_eq
      have hp : (2 : Nat) ^ ms ≤ 2 ^ 32 := Nat.pow_le_pow_right (by omega) h
      have h0 : 0 < (2 : Nat) ^ ms := Nat.two_pow_pos ms
      simp only [BitVec.toNat_sub, BitVec.toNat_shiftLeft, BitVec.toNat_ofNat, Nat.shiftLeft_eq]
      omega
    rw [h64, BitVec.getLsbD_ofNat, Nat.testBit_two_pow_sub_one]
    by_cases hj : j < ms
    · have : j < 64 := by omega
      simp [hj, this]
    · simp [hj]
  unfold extractField accumulate
  simp only [BitVec.getLsbD_setWidth, BitVec.getLsbD_and, BitVec.getLsbD_ushiftRight, hmask,
    foldl_bytes_getLsbD]
  by_cases hj : j < ms
  · have h1 : j < 32 := by omega
    have h2 : fb % 8 + j < 64 := by omega
    have h3 : (fb % 8 + j) / 8 < (fb + ms - 1) / 8 + 1 - fb / 8 := by omega
    have h4 : fb / 8 + (fb % 8 + j) / 8 = (fb + j) / 8 := by omega
    have h5 : (fb % 8 + j) % 8 = (fb + j) % 8 := by omega
    simp [hj, h1, h2, h3, h4, h5]
  · simp [hj]

/-- SYNCSAFE's value without its loop (41_syncsafe R121). -/
theorem syncsafeValue_eq (buf : Nat → Byte) (si : Nat) :
    syncsafeValue buf si = ((buf si).setWidth 32 <<< 21) ||| ((buf (si + 1)).setWidth 32 <<< 14)
      ||| ((buf (si + 2)).setWidth 32 <<< 7) ||| (buf (si + 3)).setWidth 32 := by
  simp [syncsafeValue, List.range_succ]

/-- EXTRACT's value depends only on the bytes of its field (40_bitfield R106). -/
theorem extractField_congr {buf buf' : Nat → Byte} {fb ms : Nat} (hms : ms ≤ 32)
    (h : ∀ b, fb / 8 ≤ b → b ≤ (fb + ms - 1) / 8 → buf b = buf' b) :
    extractField buf fb ms = extractField buf' fb ms := by
  apply BitVec.eq_of_getLsbD_eq
  intro j _
  rw [extractField_getLsbD _ _ _ _ hms, extractField_getLsbD _ _ _ _ hms]
  by_cases hj : j < ms
  · rw [h _ (by omega) (by omega)]
  · simp [hj]

/-- The value function on four reversed bytes takes the LSB-0 bits of their big-endian value (40_bitfield R107). -/
theorem extractField_reversed (buf : Nat → Byte) (off n j : Nat) (h : off + n ≤ 32) :
    (extractField buf off n).getLsbD j
      = (decide (j < n) && (buf 3 ++ buf 2 ++ buf 1 ++ buf 0).getLsbD (off + j)) := by
  rw [extractField_getLsbD _ _ _ _ (by omega)]
  by_cases hj : j < n
  · simp only [hj, decide_true, Bool.true_and, BitVec.getLsbD_append]
    have hc : (off + j) / 8 = 0 ∨ (off + j) / 8 = 1 ∨ (off + j) / 8 = 2 ∨ (off + j) / 8 = 3 := by omega
    rcases hc with hc | hc | hc | hc
    · rw [hc, if_pos (by omega)]; congr 1; omega
    · rw [hc, if_neg (by omega), if_pos (by omega)]; congr 1; omega
    · rw [hc, if_neg (by omega), if_neg (by omega), if_pos (by omega)]; congr 1; omega
    · rw [hc, if_neg (by omega), if_neg (by omega), if_neg (by omega)]; congr 1; omega
  · simp [hj]

end Sys2Proof.Machine
end

