-- ==== Sys2Proof/Laws/State.lean ====
section
/-! SUPPORT. What each update of State leaves in each field: one lemma per field per update. -/

namespace Sys2Proof.Machine

/-! State.raise -/
@[simp] theorem State.raise_status (s : State) (o : BitVec 4) (k : Kind) (c : Cause) :
    (s.raise o k c).status = statusWord o k c := rfl
@[simp] theorem State.raise_result (s : State) (o : BitVec 4) (k : Kind) (c : Cause) :
    (s.raise o k c).result = sentinel := rfl
@[simp] theorem State.raise_argA (s : State) (o : BitVec 4) (k : Kind) (c : Cause) :
    (s.raise o k c).argA = s.argA := rfl
@[simp] theorem State.raise_argB (s : State) (o : BitVec 4) (k : Kind) (c : Cause) :
    (s.raise o k c).argB = s.argB := rfl
@[simp] theorem State.raise_dataBase (s : State) (o : BitVec 4) (k : Kind) (c : Cause) :
    (s.raise o k c).dataBase = s.dataBase := rfl
@[simp] theorem State.raise_dataLen (s : State) (o : BitVec 4) (k : Kind) (c : Cause) :
    (s.raise o k c).dataLen = s.dataLen := rfl
@[simp] theorem State.raise_patBase (s : State) (o : BitVec 4) (k : Kind) (c : Cause) :
    (s.raise o k c).patBase = s.patBase := rfl
@[simp] theorem State.raise_patLen (s : State) (o : BitVec 4) (k : Kind) (c : Cause) :
    (s.raise o k c).patLen = s.patLen := rfl
@[simp] theorem State.raise_maskBase (s : State) (o : BitVec 4) (k : Kind) (c : Cause) :
    (s.raise o k c).maskBase = s.maskBase := rfl
@[simp] theorem State.raise_maskLen (s : State) (o : BitVec 4) (k : Kind) (c : Cause) :
    (s.raise o k c).maskLen = s.maskLen := rfl
@[simp] theorem State.raise_srcBase (s : State) (o : BitVec 4) (k : Kind) (c : Cause) :
    (s.raise o k c).srcBase = s.srcBase := rfl
@[simp] theorem State.raise_srcLen (s : State) (o : BitVec 4) (k : Kind) (c : Cause) :
    (s.raise o k c).srcLen = s.srcLen := rfl
@[simp] theorem State.raise_srcPos (s : State) (o : BitVec 4) (k : Kind) (c : Cause) :
    (s.raise o k c).srcPos = s.srcPos := rfl
@[simp] theorem State.raise_fh (s : State) (o : BitVec 4) (k : Kind) (c : Cause) :
    (s.raise o k c).fh = s.fh := rfl
@[simp] theorem State.raise_wmem (s : State) (o : BitVec 4) (k : Kind) (c : Cause) :
    (s.raise o k c).wmem = s.wmem := rfl
@[simp] theorem State.raise_config (s : State) (o : BitVec 4) (k : Kind) (c : Cause) :
    (s.raise o k c).config = s.config := rfl
@[simp] theorem State.raise_hostProgram (s : State) (o : BitVec 4) (k : Kind) (c : Cause) :
    (s.raise o k c).hostProgram = s.hostProgram := rfl
@[simp] theorem State.raise_readData (s : State) (o : BitVec 4) (k : Kind) (c : Cause) :
    (s.raise o k c).readData = s.readData := rfl

/-! State.finish -/
@[simp] theorem State.finish_status (s : State) (o : BitVec 4) (v : Word) :
    (s.finish o v).status = statusWord o .ok .none := rfl
@[simp] theorem State.finish_result (s : State) (o : BitVec 4) (v : Word) :
    (s.finish o v).result = v := rfl
@[simp] theorem State.finish_argA (s : State) (o : BitVec 4) (v : Word) :
    (s.finish o v).argA = s.argA := rfl
@[simp] theorem State.finish_argB (s : State) (o : BitVec 4) (v : Word) :
    (s.finish o v).argB = s.argB := rfl
@[simp] theorem State.finish_dataBase (s : State) (o : BitVec 4) (v : Word) :
    (s.finish o v).dataBase = s.dataBase := rfl
@[simp] theorem State.finish_dataLen (s : State) (o : BitVec 4) (v : Word) :
    (s.finish o v).dataLen = s.dataLen := rfl
@[simp] theorem State.finish_patBase (s : State) (o : BitVec 4) (v : Word) :
    (s.finish o v).patBase = s.patBase := rfl
@[simp] theorem State.finish_patLen (s : State) (o : BitVec 4) (v : Word) :
    (s.finish o v).patLen = s.patLen := rfl
@[simp] theorem State.finish_maskBase (s : State) (o : BitVec 4) (v : Word) :
    (s.finish o v).maskBase = s.maskBase := rfl
@[simp] theorem State.finish_maskLen (s : State) (o : BitVec 4) (v : Word) :
    (s.finish o v).maskLen = s.maskLen := rfl
@[simp] theorem State.finish_srcBase (s : State) (o : BitVec 4) (v : Word) :
    (s.finish o v).srcBase = s.srcBase := rfl
@[simp] theorem State.finish_srcLen (s : State) (o : BitVec 4) (v : Word) :
    (s.finish o v).srcLen = s.srcLen := rfl
@[simp] theorem State.finish_srcPos (s : State) (o : BitVec 4) (v : Word) :
    (s.finish o v).srcPos = s.srcPos := rfl
@[simp] theorem State.finish_fh (s : State) (o : BitVec 4) (v : Word) :
    (s.finish o v).fh = s.fh := rfl
@[simp] theorem State.finish_wmem (s : State) (o : BitVec 4) (v : Word) :
    (s.finish o v).wmem = s.wmem := rfl
@[simp] theorem State.finish_config (s : State) (o : BitVec 4) (v : Word) :
    (s.finish o v).config = s.config := rfl
@[simp] theorem State.finish_hostProgram (s : State) (o : BitVec 4) (v : Word) :
    (s.finish o v).hostProgram = s.hostProgram := rfl
@[simp] theorem State.finish_readData (s : State) (o : BitVec 4) (v : Word) :
    (s.finish o v).readData = s.readData := rfl

/-! State.failDecode -/
@[simp] theorem State.failDecode_status (s : State) (k : Kind) (c : Cause) :
    (s.failDecode k c).status = statusWord 5#4 k c := rfl
@[simp] theorem State.failDecode_result (s : State) (k : Kind) (c : Cause) :
    (s.failDecode k c).result = sentinel := rfl
@[simp] theorem State.failDecode_argA (s : State) (k : Kind) (c : Cause) :
    (s.failDecode k c).argA = s.argA := rfl
@[simp] theorem State.failDecode_argB (s : State) (k : Kind) (c : Cause) :
    (s.failDecode k c).argB = s.argB := rfl
@[simp] theorem State.failDecode_dataBase (s : State) (k : Kind) (c : Cause) :
    (s.failDecode k c).dataBase = s.dataBase := rfl
@[simp] theorem State.failDecode_dataLen (s : State) (k : Kind) (c : Cause) :
    (s.failDecode k c).dataLen = s.dataLen := rfl
@[simp] theorem State.failDecode_patBase (s : State) (k : Kind) (c : Cause) :
    (s.failDecode k c).patBase = s.patBase := rfl
@[simp] theorem State.failDecode_patLen (s : State) (k : Kind) (c : Cause) :
    (s.failDecode k c).patLen = s.patLen := rfl
@[simp] theorem State.failDecode_maskBase (s : State) (k : Kind) (c : Cause) :
    (s.failDecode k c).maskBase = s.maskBase := rfl
@[simp] theorem State.failDecode_maskLen (s : State) (k : Kind) (c : Cause) :
    (s.failDecode k c).maskLen = s.maskLen := rfl
@[simp] theorem State.failDecode_srcBase (s : State) (k : Kind) (c : Cause) :
    (s.failDecode k c).srcBase = s.srcBase := rfl
@[simp] theorem State.failDecode_srcLen (s : State) (k : Kind) (c : Cause) :
    (s.failDecode k c).srcLen = s.srcLen := rfl
@[simp] theorem State.failDecode_srcPos (s : State) (k : Kind) (c : Cause) :
    (s.failDecode k c).srcPos = s.srcPos := rfl
@[simp] theorem State.failDecode_fh (s : State) (k : Kind) (c : Cause) :
    (s.failDecode k c).fh = none := rfl
@[simp] theorem State.failDecode_wmem (s : State) (k : Kind) (c : Cause) :
    (s.failDecode k c).wmem = s.wmem := rfl
@[simp] theorem State.failDecode_config (s : State) (k : Kind) (c : Cause) :
    (s.failDecode k c).config = s.config := rfl
@[simp] theorem State.failDecode_hostProgram (s : State) (k : Kind) (c : Cause) :
    (s.failDecode k c).hostProgram = s.hostProgram := rfl
@[simp] theorem State.failDecode_readData (s : State) (k : Kind) (c : Cause) :
    (s.failDecode k c).readData = s.readData := rfl

/-! State.acceptDecode -/
@[simp] theorem State.acceptDecode_status (s : State) (h : FrameHeader) :
    (s.acceptDecode h).status = statusWord 5#4 .ok .none := rfl
@[simp] theorem State.acceptDecode_result (s : State) (h : FrameHeader) :
    (s.acceptDecode h).result = 0#32 := rfl
@[simp] theorem State.acceptDecode_argA (s : State) (h : FrameHeader) :
    (s.acceptDecode h).argA = s.argA := rfl
@[simp] theorem State.acceptDecode_argB (s : State) (h : FrameHeader) :
    (s.acceptDecode h).argB = s.argB := rfl
@[simp] theorem State.acceptDecode_dataBase (s : State) (h : FrameHeader) :
    (s.acceptDecode h).dataBase = s.dataBase := rfl
@[simp] theorem State.acceptDecode_dataLen (s : State) (h : FrameHeader) :
    (s.acceptDecode h).dataLen = s.dataLen := rfl
@[simp] theorem State.acceptDecode_patBase (s : State) (h : FrameHeader) :
    (s.acceptDecode h).patBase = s.patBase := rfl
@[simp] theorem State.acceptDecode_patLen (s : State) (h : FrameHeader) :
    (s.acceptDecode h).patLen = s.patLen := rfl
@[simp] theorem State.acceptDecode_maskBase (s : State) (h : FrameHeader) :
    (s.acceptDecode h).maskBase = s.maskBase := rfl
@[simp] theorem State.acceptDecode_maskLen (s : State) (h : FrameHeader) :
    (s.acceptDecode h).maskLen = s.maskLen := rfl
@[simp] theorem State.acceptDecode_srcBase (s : State) (h : FrameHeader) :
    (s.acceptDecode h).srcBase = s.srcBase := rfl
@[simp] theorem State.acceptDecode_srcLen (s : State) (h : FrameHeader) :
    (s.acceptDecode h).srcLen = s.srcLen := rfl
@[simp] theorem State.acceptDecode_srcPos (s : State) (h : FrameHeader) :
    (s.acceptDecode h).srcPos = s.srcPos + 4#32 := rfl
@[simp] theorem State.acceptDecode_fh (s : State) (h : FrameHeader) :
    (s.acceptDecode h).fh = some h := rfl
@[simp] theorem State.acceptDecode_wmem (s : State) (h : FrameHeader) :
    (s.acceptDecode h).wmem = s.wmem := rfl
@[simp] theorem State.acceptDecode_config (s : State) (h : FrameHeader) :
    (s.acceptDecode h).config = s.config := rfl
@[simp] theorem State.acceptDecode_hostProgram (s : State) (h : FrameHeader) :
    (s.acceptDecode h).hostProgram = s.hostProgram := rfl
@[simp] theorem State.acceptDecode_readData (s : State) (h : FrameHeader) :
    (s.acceptDecode h).readData = s.readData := rfl

/-! State.platformReset -/
@[simp] theorem State.platformReset_status (s : State) :
    (s.platformReset).status = 0#32 := rfl
@[simp] theorem State.platformReset_result (s : State) :
    (s.platformReset).result = 0#32 := rfl
@[simp] theorem State.platformReset_argA (s : State) :
    (s.platformReset).argA = 0#32 := rfl
@[simp] theorem State.platformReset_argB (s : State) :
    (s.platformReset).argB = 0#32 := rfl
@[simp] theorem State.platformReset_dataBase (s : State) :
    (s.platformReset).dataBase = 0#32 := rfl
@[simp] theorem State.platformReset_dataLen (s : State) :
    (s.platformReset).dataLen = 0#32 := rfl
@[simp] theorem State.platformReset_patBase (s : State) :
    (s.platformReset).patBase = 0#32 := rfl
@[simp] theorem State.platformReset_patLen (s : State) :
    (s.platformReset).patLen = 0#32 := rfl
@[simp] theorem State.platformReset_maskBase (s : State) :
    (s.platformReset).maskBase = 0#32 := rfl
@[simp] theorem State.platformReset_maskLen (s : State) :
    (s.platformReset).maskLen = 0#32 := rfl
@[simp] theorem State.platformReset_srcBase (s : State) :
    (s.platformReset).srcBase = 0#32 := rfl
@[simp] theorem State.platformReset_srcLen (s : State) :
    (s.platformReset).srcLen = 0#32 := rfl
@[simp] theorem State.platformReset_srcPos (s : State) :
    (s.platformReset).srcPos = 0#32 := rfl
@[simp] theorem State.platformReset_fh (s : State) :
    (s.platformReset).fh = none := rfl
@[simp] theorem State.platformReset_wmem (s : State) :
    (s.platformReset).wmem = s.wmem := rfl
@[simp] theorem State.platformReset_config (s : State) :
    (s.platformReset).config = s.config := rfl
@[simp] theorem State.platformReset_hostProgram (s : State) :
    (s.platformReset).hostProgram = s.hostProgram := rfl
@[simp] theorem State.platformReset_readData (s : State) :
    (s.platformReset).readData = s.readData := rfl

/-! State.writeReg -/
@[simp] theorem State.writeReg_status (s : State) (r : Reg) (v : Word) :
    (s.writeReg r v).status = s.status := by cases r <;> rfl
@[simp] theorem State.writeReg_result (s : State) (r : Reg) (v : Word) :
    (s.writeReg r v).result = s.result := by cases r <;> rfl
@[simp] theorem State.writeReg_fh (s : State) (r : Reg) (v : Word) :
    (s.writeReg r v).fh = s.fh := by cases r <;> rfl
@[simp] theorem State.writeReg_wmem (s : State) (r : Reg) (v : Word) :
    (s.writeReg r v).wmem = s.wmem := by cases r <;> rfl
@[simp] theorem State.writeReg_config (s : State) (r : Reg) (v : Word) :
    (s.writeReg r v).config = s.config := by cases r <;> rfl
@[simp] theorem State.writeReg_hostProgram (s : State) (r : Reg) (v : Word) :
    (s.writeReg r v).hostProgram = s.hostProgram := by cases r <;> rfl
@[simp] theorem State.writeReg_readData (s : State) (r : Reg) (v : Word) :
    (s.writeReg r v).readData = s.readData := by cases r <;> rfl

/-! State.illegal -/
@[simp] theorem State.illegal_result (s : State) (c : Word) (e : IllegalWord) :
    (s.illegal c e).result = sentinel := by cases e <;> rfl
@[simp] theorem State.illegal_argA (s : State) (c : Word) (e : IllegalWord) :
    (s.illegal c e).argA = s.argA := by cases e <;> rfl
@[simp] theorem State.illegal_argB (s : State) (c : Word) (e : IllegalWord) :
    (s.illegal c e).argB = s.argB := by cases e <;> rfl
@[simp] theorem State.illegal_dataBase (s : State) (c : Word) (e : IllegalWord) :
    (s.illegal c e).dataBase = s.dataBase := by cases e <;> rfl
@[simp] theorem State.illegal_dataLen (s : State) (c : Word) (e : IllegalWord) :
    (s.illegal c e).dataLen = s.dataLen := by cases e <;> rfl
@[simp] theorem State.illegal_patBase (s : State) (c : Word) (e : IllegalWord) :
    (s.illegal c e).patBase = s.patBase := by cases e <;> rfl
@[simp] theorem State.illegal_patLen (s : State) (c : Word) (e : IllegalWord) :
    (s.illegal c e).patLen = s.patLen := by cases e <;> rfl
@[simp] theorem State.illegal_maskBase (s : State) (c : Word) (e : IllegalWord) :
    (s.illegal c e).maskBase = s.maskBase := by cases e <;> rfl
@[simp] theorem State.illegal_maskLen (s : State) (c : Word) (e : IllegalWord) :
    (s.illegal c e).maskLen = s.maskLen := by cases e <;> rfl
@[simp] theorem State.illegal_srcBase (s : State) (c : Word) (e : IllegalWord) :
    (s.illegal c e).srcBase = s.srcBase := by cases e <;> rfl
@[simp] theorem State.illegal_srcLen (s : State) (c : Word) (e : IllegalWord) :
    (s.illegal c e).srcLen = s.srcLen := by cases e <;> rfl
@[simp] theorem State.illegal_srcPos (s : State) (c : Word) (e : IllegalWord) :
    (s.illegal c e).srcPos = s.srcPos := by cases e <;> rfl
@[simp] theorem State.illegal_fh (s : State) (c : Word) (e : IllegalWord) :
    (s.illegal c e).fh = s.fh := by cases e <;> rfl
@[simp] theorem State.illegal_wmem (s : State) (c : Word) (e : IllegalWord) :
    (s.illegal c e).wmem = s.wmem := by cases e <;> rfl
@[simp] theorem State.illegal_config (s : State) (c : Word) (e : IllegalWord) :
    (s.illegal c e).config = s.config := by cases e <;> rfl
@[simp] theorem State.illegal_hostProgram (s : State) (c : Word) (e : IllegalWord) :
    (s.illegal c e).hostProgram = s.hostProgram := by cases e <;> rfl
@[simp] theorem State.illegal_readData (s : State) (c : Word) (e : IllegalWord) :
    (s.illegal c e).readData = s.readData := by cases e <;> rfl

/-! State.endSearch -/
@[simp] theorem State.endSearch_argA (s : State) (o : BitVec 4) (r : SearchResult) :
    (s.endSearch o r).argA = s.argA := by cases r <;> rfl
@[simp] theorem State.endSearch_argB (s : State) (o : BitVec 4) (r : SearchResult) :
    (s.endSearch o r).argB = s.argB := by cases r <;> rfl
@[simp] theorem State.endSearch_dataBase (s : State) (o : BitVec 4) (r : SearchResult) :
    (s.endSearch o r).dataBase = s.dataBase := by cases r <;> rfl
@[simp] theorem State.endSearch_dataLen (s : State) (o : BitVec 4) (r : SearchResult) :
    (s.endSearch o r).dataLen = s.dataLen := by cases r <;> rfl
@[simp] theorem State.endSearch_patBase (s : State) (o : BitVec 4) (r : SearchResult) :
    (s.endSearch o r).patBase = s.patBase := by cases r <;> rfl
@[simp] theorem State.endSearch_patLen (s : State) (o : BitVec 4) (r : SearchResult) :
    (s.endSearch o r).patLen = s.patLen := by cases r <;> rfl
@[simp] theorem State.endSearch_maskBase (s : State) (o : BitVec 4) (r : SearchResult) :
    (s.endSearch o r).maskBase = s.maskBase := by cases r <;> rfl
@[simp] theorem State.endSearch_maskLen (s : State) (o : BitVec 4) (r : SearchResult) :
    (s.endSearch o r).maskLen = s.maskLen := by cases r <;> rfl
@[simp] theorem State.endSearch_srcBase (s : State) (o : BitVec 4) (r : SearchResult) :
    (s.endSearch o r).srcBase = s.srcBase := by cases r <;> rfl
@[simp] theorem State.endSearch_srcLen (s : State) (o : BitVec 4) (r : SearchResult) :
    (s.endSearch o r).srcLen = s.srcLen := by cases r <;> rfl
@[simp] theorem State.endSearch_srcPos (s : State) (o : BitVec 4) (r : SearchResult) :
    (s.endSearch o r).srcPos = s.srcPos := by cases r <;> rfl
@[simp] theorem State.endSearch_fh (s : State) (o : BitVec 4) (r : SearchResult) :
    (s.endSearch o r).fh = s.fh := by cases r <;> rfl
@[simp] theorem State.endSearch_wmem (s : State) (o : BitVec 4) (r : SearchResult) :
    (s.endSearch o r).wmem = s.wmem := by cases r <;> rfl
@[simp] theorem State.endSearch_config (s : State) (o : BitVec 4) (r : SearchResult) :
    (s.endSearch o r).config = s.config := by cases r <;> rfl
@[simp] theorem State.endSearch_hostProgram (s : State) (o : BitVec 4) (r : SearchResult) :
    (s.endSearch o r).hostProgram = s.hostProgram := by cases r <;> rfl
@[simp] theorem State.endSearch_readData (s : State) (o : BitVec 4) (r : SearchResult) :
    (s.endSearch o r).readData = s.readData := by cases r <;> rfl

end Sys2Proof.Machine
end

