-- ==== Sys2Proof/Laws/Exec.lean ====
section
/-! SUPPORT. Once per meaning and per shared operation, everything it can answer. -/

namespace Sys2Proof.Machine

theorem execExtract_cases (s : State) :
    (∃ c, extractCheck s = some c ∧ execExtract s = .next (s.raise 1#4 .invalidArgument c))
    ∨ (extractCheck s = none
      ∧ execExtract s = .next (s.finish 1#4 (extractField s.dataByte s.argA.toNat s.argB.toNat))) := by
  unfold execExtract
  cases h : extractCheck s with
  | some c => exact .inl ⟨c, rfl, rfl⟩
  | none => exact .inr ⟨rfl, rfl⟩

theorem execSyncsafe_cases (s : State) :
    (∃ c, syncsafeCheck s = some c ∧ execSyncsafe s = .next (s.raise 2#4 .invalidArgument c))
    ∨ (syncsafeCheck s = none
      ∧ execSyncsafe s = .next (s.finish 2#4 (syncsafeValue s.dataByte s.argA.toNat))) := by
  unfold execSyncsafe
  cases h : syncsafeCheck s with
  | some c => exact .inl ⟨c, rfl, rfl⟩
  | none => exact .inr ⟨rfl, rfl⟩

theorem execFindMasked_cases (s : State) :
    (∃ c, findMaskedCheck s = some c ∧ execFindMasked s = .next (s.raise 3#4 .invalidArgument c))
    ∨ (findMaskedCheck s = none ∧ execFindMasked s = .next (s.endSearch 3#4
      (scan s.config.searchMode s.dataByte s.patByte s.maskByte s.dataLen.toNat s.patLen.toNat s.argA.toNat))) := by
  unfold execFindMasked
  cases h : findMaskedCheck s with
  | some c => exact .inl ⟨c, rfl, rfl⟩
  | none => exact .inr ⟨rfl, rfl⟩

theorem execFindBytes_cases (s : State) :
    (∃ c, findBytesCheck s = some c ∧ execFindBytes s = .next (s.raise 4#4 .invalidArgument c))
    ∨ (findBytesCheck s = none ∧ execFindBytes s = .next (s.endSearch 4#4
      (scan s.config.searchMode s.dataByte s.patByte onesMask s.dataLen.toNat s.patLen.toNat s.argA.toNat))) := by
  unfold execFindBytes
  cases h : findBytesCheck s with
  | some c => exact .inl ⟨c, rfl, rfl⟩
  | none => exact .inr ⟨rfl, rfl⟩

/-- A format test of the header fails with one of three causes; otherwise the record is built from a mapped version
and layer (43_mpeg R173, R174). -/
theorem decodeHeader_cases (cfg : Config) (r : Nat → Byte) :
    (∃ c, decodeHeader cfg r = .error c ∧ (c = .badSync ∨ c = .badVersion ∨ c = .badLayer))
    ∨ ∃ v l, decodeHeader cfg r = .ok (headerOf cfg r v l) := by
  unfold decodeHeader
  split
  · exact .inl ⟨_, rfl, by simp⟩
  · cases versionOf ((extractField r 19 2).setWidth 2) with
    | none => exact .inl ⟨_, rfl, by simp⟩
    | some v =>
      cases layerOf ((extractField r 17 2).setWidth 2) with
      | none => exact .inl ⟨_, rfl, by simp⟩
      | some l => exact .inr ⟨v, l, rfl⟩

theorem execMpegDecode_cases (s : State) :
    (¬ s.inRange s.srcBase s.srcLen ∧ execMpegDecode s = .next (s.failDecode .invalidArgument .windowRange))
    ∨ (s.inRange s.srcBase s.srcLen ∧ s.avail < 4 ∧ execMpegDecode s = .next (s.failDecode .truncated .shortRead))
    ∨ (s.inRange s.srcBase s.srcLen ∧ 4 ≤ s.avail
      ∧ ((∃ c, decodeHeader s.config s.reversedHeader = .error c
          ∧ execMpegDecode s = .next (s.failDecode .formatMismatch c))
        ∨ ∃ h, decodeHeader s.config s.reversedHeader = .ok h ∧ execMpegDecode s = .next (s.acceptDecode h))) := by
  unfold execMpegDecode
  split
  · exact .inl ⟨‹_›, rfl⟩
  · split
    · exact .inr (.inl ⟨not_not.mp ‹_›, ‹_›, rfl⟩)
    · refine .inr (.inr ⟨not_not.mp ‹_›, by omega, ?_⟩)
      cases decodeHeader s.config s.reversedHeader with
      | error c => exact .inl ⟨c, rfl, rfl⟩
      | ok h => exact .inr ⟨h, rfl, rfl⟩

/-- Every command on every state answers a next state (70 R253). -/
theorem exec_next (i : Instr) (s : State) : ∃ t, exec i s = .next t := by
  cases i
  · rcases execExtract_cases s with ⟨_, -, h⟩ | ⟨-, h⟩ <;> exact ⟨_, h⟩
  · rcases execSyncsafe_cases s with ⟨_, -, h⟩ | ⟨-, h⟩ <;> exact ⟨_, h⟩
  · rcases execFindMasked_cases s with ⟨_, -, h⟩ | ⟨-, h⟩ <;> exact ⟨_, h⟩
  · rcases execFindBytes_cases s with ⟨_, -, h⟩ | ⟨-, h⟩ <;> exact ⟨_, h⟩
  · rcases execMpegDecode_cases s with ⟨-, h⟩ | ⟨-, -, h⟩ | ⟨-, -, ⟨_, -, h⟩ | ⟨_, -, h⟩⟩ <;> exact ⟨_, h⟩

/-- What a CMD write does: the decoded command, or an illegal word's status (30_encoding R71). -/
theorem command_cases (c : Word) (s : State) :
    (∃ i, decode c = .ok i ∧ command c s = exec i s)
    ∨ ∃ e, decode c = .error e ∧ command c s = .next (s.illegal c e) := by
  unfold command
  cases decode c with
  | ok i => exact .inl ⟨i, rfl, rfl⟩
  | error e => exact .inr ⟨e, rfl, rfl⟩

theorem step_nil {s : State} (h : s.hostProgram = []) : step s = .next s := by
  simp [step, stepHost, h]

theorem step_cons {s : State} {a : HostAccess} {rest : List HostAccess} (h : s.hostProgram = a :: rest) :
    step s = hostAccess a { s with hostProgram := rest } := by
  simp [step, stepHost, h]

/-- The offset of every register leads back to it (10_state R20). -/
theorem regAt_offset (r : Reg) : regAt r.offset = some r := by cases r <;> rfl

/-- A defined register write is a command at CMD, a register write elsewhere, or nothing at a reserved offset. -/
theorem hostRegWrite_cases (width offset : Nat) (v : Word) (s : State) :
    (∃ r, accessRefusal width offset = some r ∧ hostRegWrite width offset v s = .refused r)
    ∨ (accessRefusal width offset = none
      ∧ ((regAt offset = some .cmd ∧ hostRegWrite width offset v s = command v s)
        ∨ (∃ r, regAt offset = some r ∧ r ≠ .cmd ∧ hostRegWrite width offset v s = .next (s.writeReg r v))
        ∨ (regAt offset = none ∧ hostRegWrite width offset v s = .next s))) := by
  unfold hostRegWrite regWriteAt
  cases accessRefusal width offset with
  | some r => exact .inl ⟨r, rfl, rfl⟩
  | none =>
    refine .inr ⟨rfl, ?_⟩
    cases regAt offset with
    | none => exact .inr (.inr ⟨rfl, rfl⟩)
    | some r => cases r <;> first | exact .inl ⟨rfl, rfl⟩ | exact .inr (.inl ⟨_, rfl, by simp, rfl⟩)

/-- Only a register's own offset leads to it (10_state R20). -/
theorem offset_of_regAt {offset : Nat} {r : Reg} (h : regAt offset = some r) : offset = r.offset := by
  have h' := List.find?_some h
  exact (eq_of_beq h').symm

/-- Exactly the accesses of 20_memory R50 are not refused. -/
theorem accessRefusal_eq_none (width offset : Nat) :
    accessRefusal width offset = none ↔ width = 32 ∧ offset % 4 = 0 ∧ offset < 0x100 := by
  unfold accessRefusal
  split_ifs <;> simp <;> omega

theorem accessRefusal_offset (r : Reg) : accessRefusal 32 r.offset = none := by cases r <;> decide

/-- A 32-bit write of CMD is a command (10_state R23). -/
theorem hostAccess_cmdWrite (c : Word) (s : State) : hostAccess (.regWrite 32 0x00 c) s = command c s := rfl

/-- A 32-bit write of any other register is a register write (20_memory R50). -/
theorem hostAccess_regWrite {r : Reg} (hr : r ≠ .cmd) (v : Word) (s : State) :
    hostAccess (.regWrite 32 r.offset v) s = .next (s.writeReg r v) := by
  simp only [hostAccess, hostRegWrite, accessRefusal_offset, regWriteAt, regAt_offset]

/-- A 32-bit read of a register gets its value back (20_memory R50, 70 R256). -/
theorem hostAccess_regRead (r : Reg) (s : State) :
    hostAccess (.regRead 32 r.offset) s = .next { s with readData := some (s.readReg r) } := by
  simp only [hostAccess, hostRegRead, accessRefusal_offset, State.readOffset, regAt_offset]

/-- Everything a host access that answers a next state can do. -/
theorem hostAccess_next {a : HostAccess} {s t : State} (h : hostAccess a s = .next t) :
    (∃ c, a = .regWrite 32 0x00 c ∧ command c s = .next t)
    ∨ (∃ r v, a = .regWrite 32 r.offset v ∧ r ≠ .cmd ∧ t = s.writeReg r v)
    ∨ (∃ offset v, a = .regWrite 32 offset v ∧ regAt offset = none ∧ t = s)
    ∨ (∃ offset, a = .regRead 32 offset ∧ t = { s with readData := some (s.readOffset offset) })
    ∨ (∃ addr bytes, a = .wmemWrite addr bytes ∧ addr + bytes.length ≤ s.config.wmemSize
      ∧ t = { s with wmem := s.wmem.writeBytes addr bytes })
    ∨ (a = .platformReset ∧ t = s.platformReset) := by
  cases a with
  | regWrite width offset v =>
    rcases hostRegWrite_cases width offset v s with ⟨r, -, h'⟩ | ⟨hw, h'⟩
    · cases h'.symm.trans h
    · obtain ⟨rfl, -⟩ := (accessRefusal_eq_none width offset).mp hw
      rcases h' with ⟨ho, h'⟩ | ⟨r, ho, hr, h'⟩ | ⟨ho, h'⟩
      · cases offset_of_regAt ho
        exact .inl ⟨v, rfl, h'.symm.trans h⟩
      · cases offset_of_regAt ho
        cases h'.symm.trans h
        exact .inr (.inl ⟨r, v, rfl, hr, rfl⟩)
      · cases h'.symm.trans h
        exact .inr (.inr (.inl ⟨offset, v, rfl, ho, rfl⟩))
  | regRead width offset =>
    simp only [hostAccess, hostRegRead] at h
    cases hw : accessRefusal width offset with
    | some r => rw [hw] at h; cases h
    | none =>
      obtain ⟨rfl, -⟩ := (accessRefusal_eq_none width offset).mp hw
      rw [hw] at h; cases h
      exact .inr (.inr (.inr (.inl ⟨offset, rfl, rfl⟩)))
  | wmemWrite addr bytes =>
    simp only [hostAccess, hostWmemWrite] at h
    split at h
    · cases h; exact .inr (.inr (.inr (.inr (.inl ⟨addr, bytes, rfl, ‹_›, rfl⟩))))
    · cases h
  | platformReset => cases h; exact .inr (.inr (.inr (.inr (.inr ⟨rfl, rfl⟩))))

/-- A step holds the state, or performs the next host access. -/
theorem step_next {s t : State} (h : step s = .next t) :
    (s.hostProgram = [] ∧ t = s)
    ∨ ∃ a rest, s.hostProgram = a :: rest ∧ hostAccess a { s with hostProgram := rest } = .next t := by
  cases hp : s.hostProgram with
  | nil => cases (step_nil hp).symm.trans h; exact .inl ⟨rfl, rfl⟩
  | cons a rest => exact .inr ⟨a, rest, rfl, step_cons hp ▸ h⟩

end Sys2Proof.Machine
end

