-- ==== Sys2Proof/Laws/Memory.lean ====
section
/-! SUPPORT. The laws of WMEM: what a read gives after a write, and that every write keeps the canonical form. -/

namespace Sys2Proof.Machine

theorem Memory.wf_nil : Memory.wf [] := ⟨List.Pairwise.nil, by simp⟩

theorem Memory.wf_cons {c : Host.Cell} {m : Memory} :
    Memory.wf (c :: m) ↔ (∀ d ∈ m, c.1 < d.1) ∧ c.2 ≠ Memory.background ∧ Memory.wf m := by
  simp only [Memory.wf, List.pairwise_cons, List.forall_mem_cons]
  tauto

/-- A read below every listed address gives the background. -/
theorem Memory.read_of_below {m : Memory} {a : Nat} (h : ∀ c ∈ m, a < c.1) : m.read a = Memory.background := by
  induction m with
  | nil => rfl
  | cons c m ih =>
    simp only [List.forall_mem_cons] at h
    simp [Memory.read, (Nat.ne_of_gt h.1), ih h.2]

theorem Memory.read_put {m : Memory} {a : Nat} (h : ∀ c ∈ m, a < c.1) (v : Byte) (x : Nat) :
    (Memory.put a v m).read x = if x = a then v else m.read x := by
  unfold Memory.put
  split
  · next hv => split
               · next hx => rw [hx, hv, Memory.read_of_below h]
               · rfl
  · simp only [Memory.read, eq_comm]

/-- A read after a byte write: the written byte at its address, every other address as before. -/
theorem Memory.read_write {m : Memory} (hm : m.wf) (a : Nat) (v : Byte) (x : Nat) :
    (m.write a v).read x = if x = a then v else m.read x := by
  induction m with
  | nil => exact Memory.read_put (by simp) v x
  | cons c m ih =>
    obtain ⟨hlt, -, hm'⟩ := Memory.wf_cons.mp hm
    simp only [Memory.write]
    split
    · simp only [Memory.read, ih hm']
      split <;> split <;> first | rfl | omega
    · split
      · next hca =>
        rw [Memory.read_put (fun d hd => hca ▸ hlt d hd)]
        split
        · rfl
        · next hx => simp [Memory.read, show c.1 ≠ x by omega]
      · next h1 h2 =>
        refine Memory.read_put ?_ v x
        simp only [List.forall_mem_cons]
        exact ⟨by omega, fun d hd => by have := hlt d hd; omega⟩

theorem Memory.read_put_ne {m : Memory} {a x : Nat} (v : Byte) (hx : x ≠ a) : (Memory.put a v m).read x = m.read x := by
  unfold Memory.put
  split
  · rfl
  · simp [Memory.read, Ne.symm hx]

/-- A byte write leaves every other address, whatever the memory's form. -/
theorem Memory.read_write_ne (m : Memory) {a x : Nat} (v : Byte) (hx : x ≠ a) : (m.write a v).read x = m.read x := by
  induction m with
  | nil => exact Memory.read_put_ne v hx
  | cons c m ih =>
    simp only [Memory.write]
    split
    · simp only [Memory.read, ih]
    · split
      · next hca => rw [Memory.read_put_ne v hx]; simp [Memory.read, show c.1 ≠ x by omega]
      · exact Memory.read_put_ne v hx

theorem Memory.wf_put {m : Memory} (hm : m.wf) {a : Nat} (h : ∀ c ∈ m, a < c.1) (v : Byte) :
    (Memory.put a v m).wf := by
  unfold Memory.put
  split
  · exact hm
  · next hv => exact Memory.wf_cons.mpr ⟨h, hv, hm⟩

theorem Memory.mem_put {m : Memory} {a : Nat} {v : Byte} {c : Host.Cell} (h : c ∈ Memory.put a v m) :
    c = (a, v) ∨ c ∈ m := by
  unfold Memory.put at h
  split at h
  · exact .inr h
  · simpa using h

/-- A written memory lists the written address and addresses it listed before, no other. -/
theorem Memory.mem_write {m : Memory} {a : Nat} {v : Byte} {c : Host.Cell} (h : c ∈ m.write a v) :
    c = (a, v) ∨ c ∈ m := by
  induction m with
  | nil => exact Memory.mem_put h
  | cons d m ih =>
    simp only [Memory.write] at h
    split at h
    · rcases List.mem_cons.mp h with rfl | h
      · simp
      · rcases ih h with h | h <;> simp [h]
    · split at h
      · rcases Memory.mem_put h with h | h <;> simp [h]
      · exact Memory.mem_put h

/-- A byte write keeps the canonical form. -/
theorem Memory.wf_write {m : Memory} (hm : m.wf) (a : Nat) (v : Byte) : (m.write a v).wf := by
  induction m with
  | nil => exact Memory.wf_put Memory.wf_nil (by simp) v
  | cons c m ih =>
    obtain ⟨hlt, hv, hm'⟩ := Memory.wf_cons.mp hm
    simp only [Memory.write]
    split
    · next hca =>
      refine Memory.wf_cons.mpr ⟨fun d hd => ?_, hv, ih hm'⟩
      rcases Memory.mem_write hd with rfl | hd
      · exact hca
      · exact hlt d hd
    · split
      · next hca => exact Memory.wf_put hm' (fun d hd => hca ▸ hlt d hd) v
      · refine Memory.wf_put hm ?_ v
        simp only [List.forall_mem_cons]
        exact ⟨by omega, fun d hd => by have := hlt d hd; omega⟩

/-- A byte write at an address WMEM has keeps every listed address in WMEM. -/
theorem Memory.within_write {m : Memory} {size : Nat} (hm : m.within size) {a : Nat} (ha : a < size) (v : Byte) :
    (m.write a v).within size := fun c hc => by
  rcases Memory.mem_write hc with rfl | hc
  · exact ha
  · exact hm c hc

/-- A write of several bytes keeps the canonical form. -/
theorem Memory.wf_writeBytes {m : Memory} (hm : m.wf) (a : Nat) (vs : List Byte) : (m.writeBytes a vs).wf := by
  induction vs generalizing m a with
  | nil => exact hm
  | cons v vs ih => exact ih (Memory.wf_write hm a v) (a + 1)

/-- A write of several bytes at addresses WMEM has keeps every listed address in WMEM. -/
theorem Memory.within_writeBytes {m : Memory} {size : Nat} (hm : m.within size) {a : Nat} {vs : List Byte}
    (ha : a + vs.length ≤ size) : (m.writeBytes a vs).within size := by
  induction vs generalizing m a with
  | nil => exact hm
  | cons v vs ih =>
    simp only [List.length_cons] at ha
    exact ih (Memory.within_write hm (by omega) v) (by omega)

/-- A read after a write of several bytes: their bytes at their addresses, every other address as before. -/
theorem Memory.read_writeBytes {m : Memory} (hm : m.wf) (a : Nat) (vs : List Byte) (x : Nat) :
    (m.writeBytes a vs).read x = if a ≤ x ∧ x < a + vs.length then vs.getD (x - a) 0#8 else m.read x := by
  induction vs generalizing m a with
  | nil => simp only [Memory.writeBytes, List.length_nil]; rw [if_neg (by omega)]
  | cons v vs ih =>
    simp only [Memory.writeBytes, ih (Memory.wf_write hm a v), Memory.read_write hm, List.length_cons]
    by_cases h1 : x = a
    · subst h1
      rw [if_neg (by omega), if_pos rfl, if_pos (by omega), Nat.sub_self]
      rfl
    · by_cases h2 : a + 1 ≤ x ∧ x < a + 1 + vs.length
      · rw [if_pos h2, if_pos (by omega), show x - a = (x - (a + 1)) + 1 by omega]
        rfl
      · rw [if_neg h2, if_neg h1, if_neg (by omega)]

/-- A write of several bytes leaves every other address, whatever the memory's form. -/
theorem Memory.read_writeBytes_ne (m : Memory) {a x : Nat} {vs : List Byte} (hx : x < a ∨ a + vs.length ≤ x) :
    (m.writeBytes a vs).read x = m.read x := by
  induction vs generalizing m a with
  | nil => rfl
  | cons v vs ih =>
    simp only [List.length_cons] at hx
    simp only [Memory.writeBytes]
    rw [ih _ (by omega), Memory.read_write_ne _ _ (by omega)]

end Sys2Proof.Machine
end

