-- ==== Sys2Proof/Laws/Mpeg.lean ====
section
/-! SUPPORT. The bounds of the derived values (43_mpeg R196), and the frame header's register view as numbers. -/

namespace Sys2Proof.Machine

theorem bitrateOf_le {cfg : Config} {v : Version} {l : Layer} {bi : BitVec 4} {x : Nat}
    (h : x ∈ bitrateOf cfg v l bi) : x ≤ 14913000 := by
  simp only [bitrateOf, Option.mem_def, Option.map_eq_some_iff] at h
  obtain ⟨c, -, rfl⟩ := h
  omega

theorem samplingRateOf_lt {cfg : Config} {v : Version} {si : BitVec 2} {x : Nat}
    (h : x ∈ samplingRateOf cfg v si) : x < 2 ^ 31 := by
  simp only [samplingRateOf, Option.mem_def, Option.map_eq_some_iff] at h
  obtain ⟨c, -, rfl⟩ := h
  omega

theorem frameSizeOf_lt {l : Layer} {br sr : Option Nat} {pad : Nat} (hp : pad ≤ 1) (hb : ∀ b ∈ br, b ≤ 14913000)
    {x : Nat} (h : x ∈ frameSizeOf l br sr pad) : x < 2 ^ 31 := by
  cases br with
  | none => simp [frameSizeOf] at h
  | some b =>
    cases sr with
    | none => simp [frameSizeOf] at h
    | some r =>
      have hb := hb b rfl
      have h12 : 12 * b / r ≤ 12 * b := Nat.div_le_self _ _
      have h144 : 144 * b / r ≤ 144 * b := Nat.div_le_self _ _
      simp only [frameSizeOf] at h
      split at h
      · simp at h
      · cases l <;> simp only [Option.mem_def, Option.some.injEq] at h <;> omega

theorem append_toNat {m n : Nat} (x : BitVec m) (y : BitVec n) : (x ++ y).toNat = x.toNat * 2 ^ n + y.toNat := by
  rw [BitVec.toNat_append, Nat.shiftLeft_eq, Nat.mul_comm, Nat.two_pow_add_eq_or_of_lt y.isLt]

/-- A derived value that fits its 31 bits reads as itself (10_state R34 to R36). -/
theorem ofExact_some_word {v : Nat} (h : v < 2 ^ 31) : (Derived.ofExact (some v)).word.toNat = v := by
  simp only [Derived.ofExact, Derived.word, append_toNat, BitVec.toNat_ofNat]
  omega

/-- FH_FIELDS as a number (43_mpeg R176). -/
theorem fieldsWord_toNat (h : FrameHeader) :
    h.fieldsWord.toNat = 1 + h.version.code.toNat * 2 + h.layer.code.toNat * 8 + h.isProtected.toNat * 32
      + h.bitrateIndex.toNat * 64 + h.srateIndex.toNat * 1024 + h.padding.toNat * 4096
      + h.channelMode.code.toNat * 8192 := by
  simp only [FrameHeader.fieldsWord, append_toNat, BitVec.toNat_ofBool, BitVec.toNat_ofNat]
  omega

/-- A header field is those bits of the four bytes at the cursor in stream order (43_mpeg R172). -/
theorem extractField_reversedHeader (s : State) (off n j : Nat) (h : off + n ≤ 32) :
    (extractField s.reversedHeader off n).getLsbD j
      = (decide (j < n) && (s.streamByte s.srcPos.toNat ++ s.streamByte (s.srcPos.toNat + 1)
        ++ s.streamByte (s.srcPos.toNat + 2) ++ s.streamByte (s.srcPos.toNat + 3)).getLsbD (off + j)) :=
  extractField_reversed s.reversedHeader off n j h

end Sys2Proof.Machine
end

