-- ==== Sys2Proof/Laws/PerInstr.lean ====
section
/-! SUPPORT. Statements about every instruction as syntax, one lemma per constructor. -/

/-- The fields of a command's word (30_encoding R70, R72): it is well-formed, OPC is its opcode, RSV is 0, the word is
legal, and it decodes to the command. -/
def Sys2Proof.Laws.CommandWord.Statement (i : Sys2Proof.Instr) : Prop :=
  i.wf = true ∧ Sys2Proof.opcField (Sys2Proof.encode i) = i.opcode
    ∧ Sys2Proof.rsvField (Sys2Proof.encode i) = 0#28 ∧ Sys2Proof.commandWordLegal (Sys2Proof.encode i)
    ∧ (Sys2Proof.decode (Sys2Proof.encode i)).toOption = some i

theorem Sys2Proof.Laws.CommandWord.extract : Sys2Proof.Laws.CommandWord.Statement .extract := by
  unfold Sys2Proof.Laws.CommandWord.Statement; decide

theorem Sys2Proof.Laws.CommandWord.syncsafe : Sys2Proof.Laws.CommandWord.Statement .syncsafe := by
  unfold Sys2Proof.Laws.CommandWord.Statement; decide

theorem Sys2Proof.Laws.CommandWord.findMasked : Sys2Proof.Laws.CommandWord.Statement .findMasked := by
  unfold Sys2Proof.Laws.CommandWord.Statement; decide

theorem Sys2Proof.Laws.CommandWord.findBytes : Sys2Proof.Laws.CommandWord.Statement .findBytes := by
  unfold Sys2Proof.Laws.CommandWord.Statement; decide

theorem Sys2Proof.Laws.CommandWord.mpegDecode : Sys2Proof.Laws.CommandWord.Statement .mpegDecode := by
  unfold Sys2Proof.Laws.CommandWord.Statement; decide
end

