-- ==== Sys2Proof/Laws/Search.lean ====
section
/-! SUPPORT. What the scans can answer. -/

namespace Sys2Proof.Machine

theorem matchesAt_iff (data pattern mask : Nat → Byte) (P j : Nat) :
    matchesAt data pattern mask P j = true ↔ ∀ k, k < P → data (j + k) &&& mask k = pattern k := by
  simp [matchesAt, byteMatches]

/-- `scan_naive`'s answer: the first of its candidates at which every position matches, or none
(42_search R144). -/
theorem scanNaiveFrom_cases (data pattern mask : Nat → Byte) (P n j : Nat) :
    (∃ k, k < n ∧ scanNaiveFrom data pattern mask P n j = .found (j + k)
      ∧ matchesAt data pattern mask P (j + k) = true ∧ ∀ k' < k, matchesAt data pattern mask P (j + k') = false)
    ∨ (scanNaiveFrom data pattern mask P n j = .notFound
      ∧ ∀ k < n, matchesAt data pattern mask P (j + k) = false) := by
  induction n generalizing j with
  | zero => exact .inr ⟨rfl, by simp⟩
  | succ n ih =>
    simp only [scanNaiveFrom]
    cases hm : matchesAt data pattern mask P j with
    | true => exact .inl ⟨0, by omega, by simp, by simpa using hm, by simp⟩
    | false =>
      have shift : ∀ k' k, (∀ i < k, matchesAt data pattern mask P (j + 1 + i) = false) → k' < k + 1 →
          matchesAt data pattern mask P (j + k') = false := by
        intro k' k h hk
        cases k' with
        | zero => exact hm
        | succ i => simpa [Nat.add_assoc, Nat.add_comm 1] using h i (by omega)
      rcases ih (j + 1) with ⟨k, hk, he, hk1, hk2⟩ | ⟨he, hk⟩
      · refine .inl ⟨k + 1, by omega, by simpa [Nat.add_assoc, Nat.add_comm 1] using he,
          by simpa [Nat.add_assoc, Nat.add_comm 1] using hk1, fun k' h => shift k' k hk2 h⟩
      · exact .inr ⟨by simpa using he, fun k' h => shift k' n hk h⟩

/-- The literal scan's answer with `n` bytes left at index `i`: it reports an offset at which every position
matches, provided the positions already counted do (42_search R143, R146). -/
theorem scanLiteralFrom_sound (data pattern mask : Nat → Byte) (P n i matched : Nat) (hle : matched ≤ i)
    (hpre : ∀ k < matched, data (i - matched + k) &&& mask k = pattern k) (hP : matched ≤ P) :
    (∃ j, scanLiteralFrom data pattern mask P n i matched = .found j ∧ i ≤ j + P ∧ i - matched ≤ j ∧ j + P ≤ i + n
      ∧ ∀ k < P, data (j + k) &&& mask k = pattern k)
    ∨ scanLiteralFrom data pattern mask P n i matched = .notFound := by
  induction n generalizing i matched with
  | zero =>
    simp only [scanLiteralFrom]
    split
    · next h => subst h; exact .inl ⟨i - matched, rfl, by omega, by omega, by omega, hpre⟩
    · exact .inr rfl
  | succ n ih =>
    simp only [scanLiteralFrom]
    split
    · next h => subst h; exact .inl ⟨i - matched, rfl, by omega, by omega, by omega, hpre⟩
    · next hne =>
      split
      · next hb =>
        have hb' : data i &&& mask matched = pattern matched := by simpa [byteMatches] using hb
        rcases ih (i + 1) (matched + 1) (by omega) (fun k hk => by
          have : i + 1 - (matched + 1) = i - matched := by omega
          rw [this]
          rcases Nat.lt_or_ge k matched with h | h
          · exact hpre k h
          · have : k = matched := by omega
            subst this
            rwa [Nat.sub_add_cancel hle]) (by omega) with ⟨j, h1, h2, h3, h4, h5⟩ | h
        · exact .inl ⟨j, h1, by omega, by omega, by omega, h5⟩
        · exact .inr h
      · rcases ih (i + 1) 0 (by omega) (by simp) (by omega) with ⟨j, h1, h2, h3, h4, h5⟩ | h
        · exact .inl ⟨j, h1, by omega, by omega, by omega, h5⟩
        · exact .inr h

theorem matchesAt_congr {data data' pattern pattern' mask mask' : Nat → Byte} {P j : Nat}
    (hd : ∀ x, j ≤ x → x < j + P → data x = data' x) (hp : ∀ k < P, pattern k = pattern' k)
    (hm : ∀ k < P, mask k = mask' k) : matchesAt data pattern mask P j = matchesAt data' pattern' mask' P j := by
  rw [Bool.eq_iff_iff, matchesAt_iff, matchesAt_iff]
  refine forall_congr' fun k => imp_congr_right fun hk => ?_
  rw [hd _ (by omega) (by omega), hp k hk, hm k hk]

theorem scanNaiveFrom_congr {data data' pattern pattern' mask mask' : Nat → Byte} {P n j : Nat}
    (hd : ∀ x, j ≤ x → x + 1 < j + n + P → data x = data' x) (hp : ∀ k < P, pattern k = pattern' k)
    (hm : ∀ k < P, mask k = mask' k) :
    scanNaiveFrom data pattern mask P n j = scanNaiveFrom data' pattern' mask' P n j := by
  induction n generalizing j with
  | zero => rfl
  | succ n ih =>
    simp only [scanNaiveFrom]
    rw [matchesAt_congr (fun x h1 h2 => hd x h1 (by omega)) hp hm,
      ih (fun x h1 h2 => hd x (by omega) (by omega))]

theorem scanLiteralFrom_congr {data data' pattern pattern' mask mask' : Nat → Byte} {P n i matched : Nat}
    (hle : matched ≤ P) (hd : ∀ x, i ≤ x → x < i + n → data x = data' x) (hp : ∀ k < P, pattern k = pattern' k)
    (hm : ∀ k < P, mask k = mask' k) :
    scanLiteralFrom data pattern mask P n i matched = scanLiteralFrom data' pattern' mask' P n i matched := by
  induction n generalizing i matched with
  | zero => rfl
  | succ n ih =>
    simp only [scanLiteralFrom]
    by_cases h : matched = P
    · rw [if_pos h, if_pos h]
    · rw [if_neg h, if_neg h, hd i (by omega) (by omega), hp _ (by omega), hm _ (by omega),
        ih (by omega) (fun x h1 h2 => hd x (by omega) (by omega)),
        ih (by omega) (fun x h1 h2 => hd x (by omega) (by omega))]

/-- Both scans read only the N data bytes and the P pattern and mask bytes (42_search R146). -/
theorem scan_congr {data data' pattern pattern' mask mask' : Nat → Byte} (mode : SearchMode) {N P s : Nat}
    (hs : s ≤ N) (hd : ∀ x < N, data x = data' x) (hp : ∀ k < P, pattern k = pattern' k)
    (hm : ∀ k < P, mask k = mask' k) :
    scan mode data pattern mask N P s = scan mode data' pattern' mask' N P s := by
  cases mode with
  | literal => exact scanLiteralFrom_congr (by omega) (fun x _ h2 => hd x (by omega)) hp hm
  | naive =>
    simp only [scan, scanNaive]
    by_cases h : P + s ≤ N
    · exact scanNaiveFrom_congr (fun x _ h2 => hd x (by omega)) hp hm
    · rw [show N + 1 - (P + s) = 0 by omega]
      rfl

end Sys2Proof.Machine
end

