-- ==== Sys2Proof/Tests/Slice0.lean ====
section
/-! SUPPORT. Tests and witnesses. Expected results are the spec's own vectors (95_test_vectors) or follow by hand from
the rule named. A theorem test_witness_<statement> shows inputs that meet the hypotheses of that statement, or of the
statements its comment names, each clause at a boundary value where there are several. -/

namespace Sys2Proof.Tests

open Sys2Proof.Machine Sys2Proof.Claim

/-- The state an outcome goes on to. -/
def next? (o : Host.Outcome State Fault Refusal) : Option State :=
  match o with
  | .next t => some t
  | .fault _ => none
  | .refused _ => none

/-- STATUS and RESULT after a command, as numbers. -/
def outcome (i : Instr) (s : State) : Option (Nat × Nat) :=
  (next? (exec i s)).map fun t => (t.status.toNat, t.result.toNat)

/-- STATUS after a command word, as a number. -/
def statusAfter (c : Word) (s : State) : Option Nat := (next? (step (beforeCmd c s))).map fun t => t.status.toNat

/-- Data bytes at 0x1000 with EXTRACT's or SYNCSAFE's arguments. -/
def onData (bytes : List Byte) (len a b : Word) : State :=
  { State.reset.withMem 0x1000 bytes with dataBase := 0x1000#32, dataLen := len, argA := a, argB := b }

/-- Data at 0x1000, pattern at 0x2000, mask at 0x3000, and a start offset. -/
def onSearch (mode : SearchMode) (d p m : List Byte) (start : Word) : State :=
  { ((State.reset.withMem 0x1000 d).withMem 0x2000 p).withMem 0x3000 m with
    dataBase := 0x1000#32, dataLen := BitVec.ofNat 32 d.length, patBase := 0x2000#32,
    patLen := BitVec.ofNat 32 p.length, maskBase := 0x3000#32, maskLen := BitVec.ofNat 32 m.length, argA := start,
    config := { defaultConfig with searchMode := mode } }

/-- A stream at 0x4000 with the cursor at `pos`. -/
def onStream (bytes : List Byte) (len pos : Word) : State :=
  { State.reset.withMem 0x4000 bytes with srcBase := 0x4000#32, srcLen := len, srcPos := pos }

/-- The source's frame example, FF FB 32 00 (95_test_vectors M1). -/
def frame : State := onStream [0xFF#8, 0xFB#8, 0x32#8, 0x00#8] 4#32 0#32

/-- The frame example as a stored header. -/
def frameHeader : FrameHeader :=
  { version := .v1, layer := .l3, isProtected := false, bitrateIndex := 3#4, srateIndex := 0#2, padding := 1#1,
    channelMode := .stereo, bitrate := .value 48000#31, samplingRate := .value 44100#31, frameSize := .value 157#31 }

/-- The reset state with WMEM cut down to `size` bytes. -/
def sized (size : Nat) (s : State) : State := { s with config := { s.config with wmemSize := size } }

/-- The source's bit example, 4F 80 1C 0D (95_test_vectors E1). -/
def bits (len a b : Word) : State := onData [0x4F#8, 0x80#8, 0x1C#8, 0x0D#8] len a b

/-- ID3 size bytes (95_test_vectors Y2). -/
def id3 (len a : Word) : State := onData [0x12#8, 0x34#8, 0x56#8, 0x78#8] len a 0#32

/-! Well-formedness: one ill-formed term for each check, refused. Every `Instr` is well-formed (no operand fields). -/

theorem test_wf_every_command : ∀ i ∈ [Instr.extract, .syncsafe, .findMasked, .findBytes, .mpegDecode], i.wf = true := by
  decide

theorem test_wf_reserved_bits : ¬ reservedBitsClear 0x00000011#32 ∧ ¬ reservedBitsClear 0x80000001#32 := by decide

theorem test_wf_opcode : ¬ opcodeLegal 0x00000000#32 ∧ ¬ opcodeLegal 0x00000006#32 := by decide

theorem test_wf_command_word : ¬ commandWordLegal 0x00000015#32 ∧ ¬ commandWordLegal 0x0000000F#32 := by decide

theorem test_wf_config_size :
    ¬ Config.sizeLegal { defaultConfig with wmemSize := 0 }
      ∧ ¬ Config.sizeLegal { defaultConfig with wmemSize := 2 ^ 32 + 1 } := by decide

theorem test_wf_config_bitrate_column :
    ¬ Config.bitrateReserved { defaultConfig with
      bitrateTable := defaultBitrateTable.set 4 ((defaultBitrateTable[4]).set 15 (some 160)) } := by decide

theorem test_wf_config_srate_column :
    ¬ Config.srateReserved { defaultConfig with
      srateTable := defaultSrateTable.set 0 ((defaultSrateTable[0]).set 3 (some 44100)) } := by decide

theorem test_wf_config_source_cells :
    ¬ Config.sourceCells { defaultConfig with
      bitrateTable := defaultBitrateTable.set 2 ((defaultBitrateTable[2]).set 3 (some 56)) } := by decide

theorem test_wf_default_config : defaultConfig.wf := by decide

/-! Decoding: every constructor's word, bit by bit from 30_encoding R70 and R72 (RSV, then OPC). -/

theorem test_decode_extract :
    decode (0b0000000000000000000000000000#28 ++ 0b0001#4) = .ok .extract := by rfl

theorem test_decode_syncsafe :
    decode (0b0000000000000000000000000000#28 ++ 0b0010#4) = .ok .syncsafe := by rfl

theorem test_decode_findMasked :
    decode (0b0000000000000000000000000000#28 ++ 0b0011#4) = .ok .findMasked := by rfl

theorem test_decode_findBytes :
    decode (0b0000000000000000000000000000#28 ++ 0b0100#4) = .ok .findBytes := by rfl

theorem test_decode_mpegDecode :
    decode (0b0000000000000000000000000000#28 ++ 0b0101#4) = .ok .mpegDecode := by rfl

/-- Illegal words are refused by name, the reserved bits before the opcode (30_encoding R71). -/
theorem test_decode_illegal :
    decode 0x00000000#32 = .error .badOpcode ∧ decode 0x00000006#32 = .error .badOpcode
      ∧ decode 0x0000000F#32 = .error .badOpcode ∧ decode 0x00000010#32 = .error .reservedCmdBits
      ∧ decode 0x80000001#32 = .error .reservedCmdBits := ⟨rfl, rfl, rfl, rfl, rfl⟩

theorem test_decode_table_word :
    decodeTableWord 32 0x5 = some .mpegDecode ∧ decodeTableWord 32 0x15 = none ∧ decodeTableWord 8 0x1 = some .extract
      ∧ decodeTableWord 64 0x100000001 = none := ⟨rfl, rfl, rfl, rfl⟩

/-- A placed word runs as the next step (log entry 1). EXTRACT on the reset state ends EMPTY_BUFFER (60 R221). -/
theorem test_placed_word_runs :
    (next? (step (State.reset.withFetchWord 32 1))).map (fun t => (t.status.toNat, t.hostProgram.length))
      = some (0x111, 0) := by decide

/-! Commands: the spec's vectors (95_test_vectors). -/

/-- E1 and E2: LSB-first, little-endian. -/
theorem test_extract_field :
    outcome .extract (bits 4#32 16#32 8#32) = some (0x100, 0x1C)
      ∧ outcome .extract (bits 4#32 0#32 32#32) = some (0x100, 0x0D1C804F) := by decide

/-- E16: a field across five bytes. -/
theorem test_extract_across_five_bytes :
    outcome .extract (onData [0x10#8, 0x32#8, 0x54#8, 0x76#8, 0x98#8] 5#32 7#32 32#32) = some (0x100, 0x30ECA864) := by
  decide

/-- Y2: the producing format's 7-bit groups. -/
theorem test_syncsafe_groups : outcome .syncsafe (id3 4#32 0#32) = some (0x200, 0x024D2B78) := by decide

/-- Y5: set MSBs are neither refused nor masked. -/
theorem test_syncsafe_unmasked :
    outcome .syncsafe (onData [0xFF#8, 0xFF#8, 0xFF#8, 0xFF#8] 4#32 0#32 0#32) = some (0x200, 0x1FFFFFFF) := by decide

/-- S1: the sync word under its mask. -/
theorem test_findMasked_sync_word :
    outcome .findMasked (onSearch .literal [0x00#8, 0x49#8, 0xFF#8, 0xFB#8, 0x32#8, 0x00#8] [0xFF#8, 0xE0#8]
      [0xFF#8, 0xE0#8] 0#32) = some (0x300, 2) := by decide

/-- S3: the two scans differ on a failed partial match. -/
theorem test_findMasked_modes_differ :
    outcome .findMasked (onSearch .literal [1#8, 1#8, 2#8, 1#8, 2#8] [1#8, 2#8] [0xFF#8, 0xFF#8] 0#32) = some (0x300, 3)
      ∧ outcome .findMasked (onSearch .naive [1#8, 1#8, 2#8, 1#8, 2#8] [1#8, 2#8] [0xFF#8, 0xFF#8] 0#32)
        = some (0x300, 1) := by decide

/-- S11: a match that ends at the last data byte. -/
theorem test_findBytes_match_at_end :
    outcome .findBytes (onSearch .literal [1#8, 2#8, 3#8, 4#8] [3#8, 4#8] [] 0#32) = some (0x400, 2) := by decide

/-- S1 as FIND_BYTES: no mask, no match. -/
theorem test_findBytes_reads_no_mask :
    outcome .findBytes (onSearch .literal [0x00#8, 0x49#8, 0xFF#8, 0xFB#8, 0x32#8, 0x00#8] [0xFF#8, 0xE0#8]
      [0xFF#8, 0xE0#8] 0#32) = some (0x402, 0xFFFFFFFF) := by decide

/-- M1: the source's frame example, every FH register and the cursor. -/
theorem test_mpegDecode_frame :
    (next? (exec .mpegDecode frame)).map (fun t => [t.status.toNat, t.result.toNat, (t.readReg .fhFields).toNat,
      (t.readReg .fhBitrate).toNat, (t.readReg .fhSrate).toNat, (t.readReg .fhFsize).toNat, t.srcPos.toNat])
      = some [0x500, 0, 4315, 48000, 44100, 157, 4] := by decide

/-- M3: layer 1 counts 4-byte slots, and channel mode 3 is kept. -/
theorem test_mpegDecode_layer1 :
    (next? (exec .mpegDecode (onStream [0xFF#8, 0xFF#8, 0xC0#8, 0xC0#8] 4#32 0#32))).map
      (fun t => ((t.readReg .fhFields).toNat, (t.readReg .fhBitrate).toNat, (t.readReg .fhFsize).toNat))
      = some (25355, 384000, 416) := by decide

/-! Host accesses -/

/-- A command reads its WMEM snapshot as the host left it, and a failing decode clears FH (60 R222, 43_mpeg R177). -/
theorem test_failing_decode_clears_header :
    (next? (exec .mpegDecode { frame with srcPos := 1#32, fh := some frameHeader })).map
      (fun t => (t.status.toNat, t.fh, t.srcPos.toNat)) = some (0x5B4, none, 1) := by decide

theorem test_wmem_write_keeps_canonical_form :
    (next? (step (before (.wmemWrite 0x10 [0x00#8, 0x07#8]) { State.reset with wmem := [(0x10, 0x05#8)] }))).map
      State.wmem = some [(0x11, 0x07#8)] := by decide

/-! Witnesses of the statements' hypotheses -/

/-- The decode order at the words where its clauses meet: RESERVED_CMD_BITS from 0x10, OPC 0 and 6 to 15 otherwise. -/
theorem test_witness_CommandWordDecodeOrder :
    statusAfter 0x00000010#32 State.reset = some 0xD5 ∧ statusAfter 0xFFFFFFFF#32 State.reset = some 0xFD5
      ∧ statusAfter 0x00000000#32 State.reset = some 0xC5 ∧ statusAfter 0x00000001#32 State.reset = some 0x111
      ∧ statusAfter 0x00000002#32 State.reset = some 0x211 ∧ statusAfter 0x00000003#32 State.reset = some 0x311
      ∧ statusAfter 0x00000004#32 State.reset = some 0x411 ∧ statusAfter 0x00000005#32 State.reset = some 0x5B4
      ∧ statusAfter 0x00000006#32 State.reset = some 0x6C5 ∧ statusAfter 0x0000000F#32 State.reset = some 0xFC5 := by
  decide

theorem test_witness_ReservedBitsMakeWordIllegal :
    (4 ≤ 4 ∧ (0x00000010#32).getLsbD 4 = true) ∧ 4 ≤ 31 ∧ (0x80000001#32).getLsbD 31 = true := by decide

theorem test_witness_StepRunsDecodedCommand :
    decode 0x00000005#32 = .ok .mpegDecode ∧ decode 0x00000015#32 = .error .reservedCmdBits
      ∧ decode 0x0000000F#32 = .error .badOpcode := ⟨rfl, rfl, rfl⟩

/-- Each of EXTRACT's clauses, at a boundary (95_test_vectors E30 to E36 by hand): DATA_LEN 0; a window one byte past
WMEM; ARG_B 0 and 33; one bit past the window; and the last bit of the window, which is read. -/
theorem test_witness_ExtractTestsInOrder :
    outcome .extract (bits 0#32 0#32 8#32) = some (0x111, 0xFFFFFFFF)
      ∧ outcome .extract (sized 0x1003 (bits 4#32 0#32 8#32)) = some (0x121, 0xFFFFFFFF)
      ∧ outcome .extract (bits 4#32 0#32 0#32) = some (0x131, 0xFFFFFFFF)
      ∧ outcome .extract (bits 4#32 0#32 33#32) = some (0x131, 0xFFFFFFFF)
      ∧ outcome .extract (bits 4#32 25#32 8#32) = some (0x141, 0xFFFFFFFF)
      ∧ outcome .extract (sized 0x1004 (bits 4#32 31#32 1#32)) = some (0x100, 0) := by decide

theorem test_witness_ExtractEquivalentForms :
    extractReady (bits 4#32 31#32 1#32) ∧ extractReady (sized 0x1004 (bits 4#32 0#32 32#32)) := by
  unfold extractReady; decide

/-- The field is byte 2 of the window; the other memory lists that byte alone. -/
theorem test_witness_ExtractReadsOnlyFieldBytes :
    let s := bits 4#32 16#32 8#32
    let m : Memory := [(0x1002, 0x1C#8)]
    m ≠ s.wmem ∧ ∀ b, s.argA.toNat / 8 ≤ b → b ≤ (s.argA.toNat + s.argB.toNat - 1) / 8 →
      m.read (s.dataBase.toNat + b) = data s b := by
  refine ⟨by decide, fun b h1 h2 => ?_⟩
  have h1 : 2 ≤ b := h1
  have h2 : b ≤ 2 := h2
  obtain rfl : b = 2 := by omega
  decide

theorem test_witness_ExtractOnReversedBytesIsBigEndianField :
    let s := bits 4#32 31#32 1#32
    1 ≤ 1 ∧ 31 + 1 ≤ 32 ∧ s.argA.toNat = 31 ∧ s.argB.toNat = 1 ∧ s.dataLen = 4#32
      ∧ s.dataBase.toNat + 4 ≤ s.config.wmemSize ∧ data s 0 = 0x4F#8 ∧ data s 1 = 0x80#8 ∧ data s 2 = 0x1C#8
      ∧ data s 3 = 0x0D#8 := by decide

/-- Each of SYNCSAFE's clauses, at a boundary. -/
theorem test_witness_SyncsafeTestsInOrder :
    outcome .syncsafe (id3 0#32 0#32) = some (0x211, 0xFFFFFFFF)
      ∧ outcome .syncsafe (sized 0x1003 (id3 4#32 0#32)) = some (0x221, 0xFFFFFFFF)
      ∧ outcome .syncsafe (id3 4#32 1#32) = some (0x251, 0xFFFFFFFF)
      ∧ outcome .syncsafe (sized 0x1004 (id3 4#32 0#32)) = some (0x200, 0x024D2B78) := by decide

/-- For SyncsafeValueIsBigEndianGroups, SyncsafeRangeAndUnmaskedBits and SyncsafeInjectiveOnClearBytes. -/
theorem test_witness_SyncsafeOnClearBytes :
    (syncsafeReady (sized 0x1004 (id3 4#32 0#32)) ∧ syncsafeReady (id3 5#32 1#32))
      ∧ ∀ i, i < 4 → (syncByte (id3 4#32 0#32) i).getLsbD 7 = false ∧ (syncByte (id3 5#32 1#32) i).getLsbD 7 = false := by
  unfold syncsafeReady; decide

/-- Each of FIND_MASKED's clauses, at a boundary. -/
theorem test_witness_FindMaskedTestsInOrder :
    let s := onSearch .literal [1#8, 2#8] [2#8] [0xFF#8] 0#32
    outcome .findMasked { s with dataLen := 0#32 } = some (0x311, 0xFFFFFFFF)
      ∧ outcome .findMasked { s with patLen := 0#32 } = some (0x311, 0xFFFFFFFF)
      ∧ outcome .findMasked { s with maskLen := 2#32 } = some (0x361, 0xFFFFFFFF)
      ∧ outcome .findMasked (sized 0x1001 s) = some (0x321, 0xFFFFFFFF)
      ∧ outcome .findMasked (sized 0x2000 s) = some (0x321, 0xFFFFFFFF)
      ∧ outcome .findMasked (sized 0x3000 s) = some (0x321, 0xFFFFFFFF)
      ∧ outcome .findMasked { s with argA := 2#32 } = some (0x371, 0xFFFFFFFF)
      ∧ outcome .findMasked { s with patLen := 3#32, maskLen := 3#32 } = some (0x302, 0xFFFFFFFF)
      ∧ outcome .findMasked (sized 0x3001 { s with argA := 1#32 }) = some (0x300, 1) := by decide

/-- Each of FIND_BYTES's clauses, at a boundary. -/
theorem test_witness_FindBytesTestsInOrder :
    let s := onSearch .literal [1#8, 2#8] [2#8] [] 0#32
    outcome .findBytes { s with dataLen := 0#32 } = some (0x411, 0xFFFFFFFF)
      ∧ outcome .findBytes { s with patLen := 0#32 } = some (0x411, 0xFFFFFFFF)
      ∧ outcome .findBytes (sized 0x1001 s) = some (0x421, 0xFFFFFFFF)
      ∧ outcome .findBytes (sized 0x2000 s) = some (0x421, 0xFFFFFFFF)
      ∧ outcome .findBytes { s with argA := 2#32 } = some (0x471, 0xFFFFFFFF)
      ∧ outcome .findBytes (sized 0x2001 { s with argA := 1#32 }) = some (0x400, 1)
      ∧ outcome .findBytes { s with patLen := 3#32 } = some (0x402, 0xFFFFFFFF) := by decide

/-- Two data bytes, one pattern byte, start 1: the last offset there is. -/
def lastByte (mode : SearchMode) (p : Byte) : State := onSearch mode [1#8, 2#8] [p] [0xFF#8] 1#32

/-- Both searches, a match at the last offset and none at all. -/
theorem test_witness_NaiveSearchFindsFirstMatch :
    ∀ i ∈ [Instr.findMasked, .findBytes],
      (searchReady i (lastByte .naive 2#8) ∧ (lastByte .naive 2#8).config.searchMode = .naive
        ∧ (lastByte .naive 2#8).argA.toNat ≤ 1 ∧ 1 + (lastByte .naive 2#8).patLen.toNat ≤ 2
        ∧ (∀ k, k < 1 → positionMatches i (lastByte .naive 2#8) (data (lastByte .naive 2#8) (1 + k)) k))
      ∧ searchReady i (lastByte .naive 3#8) ∧ ¬ positionMatches i (lastByte .naive 3#8) (data (lastByte .naive 3#8) 1) 0 := by
  intro i hi
  simp only [List.mem_cons, List.not_mem_nil, or_false] at hi
  rcases hi with rfl | rfl <;> unfold searchReady <;> decide

/-- Both searches: the counter reaches the pattern's length after the one byte, or never. -/
theorem test_witness_LiteralSearchRunsMatchCounter :
    ∀ i ∈ [Instr.findMasked, .findBytes],
      (searchReady i (lastByte .literal 2#8) ∧ (lastByte .literal 2#8).config.searchMode = .literal
        ∧ matchedAfter i (lastByte .literal 2#8) 1 = (lastByte .literal 2#8).patLen.toNat
        ∧ 1 ≤ (lastByte .literal 2#8).dataLen.toNat - (lastByte .literal 2#8).argA.toNat
        ∧ (∀ n', n' < 1 → matchedAfter i (lastByte .literal 2#8) n' ≠ (lastByte .literal 2#8).patLen.toNat))
      ∧ searchReady i (lastByte .literal 3#8)
      ∧ ∀ n, n < 2 → matchedAfter i (lastByte .literal 3#8) n ≠ (lastByte .literal 3#8).patLen.toNat := by
  intro i hi
  simp only [List.mem_cons, List.not_mem_nil, or_false] at hi
  rcases hi with rfl | rfl <;> unfold searchReady <;> decide

/-- For LiteralSearchIsSound, SearchModesAgreeOnOneByte and MatchAtStartIsReported. -/
theorem test_witness_SearchOfOneByte :
    ∀ i ∈ [Instr.findMasked, .findBytes],
      searchReady i (lastByte .literal 2#8) ∧ (lastByte .literal 2#8).config.searchMode = .literal
        ∧ (lastByte .literal 2#8).patLen = 1#32
        ∧ (lastByte .literal 2#8).argA.toNat + (lastByte .literal 2#8).patLen.toNat
          ≤ (lastByte .literal 2#8).dataLen.toNat
        ∧ ∀ k, k < 1 → positionMatches i (lastByte .literal 2#8) (data (lastByte .literal 2#8) (1 + k)) k := by
  intro i hi
  simp only [List.mem_cons, List.not_mem_nil, or_false] at hi
  rcases hi with rfl | rfl <;> unfold searchReady <;> decide

/-- One data byte left for a pattern of two. -/
theorem test_witness_SearchOfShortDataIsNotFound :
    ∀ i ∈ [Instr.findMasked, .findBytes],
      searchReady i (onSearch .literal [1#8, 1#8] [1#8, 1#8] [0xFF#8, 0xFF#8] 1#32) ∧ 2 - 1 < 2 := by
  intro i hi
  simp only [List.mem_cons, List.not_mem_nil, or_false] at hi
  rcases hi with rfl | rfl <;> unfold searchReady <;> decide

theorem test_witness_FindBytesIsFindMaskedWithOnes :
    let s := onSearch .naive [1#8, 1#8, 2#8] [1#8, 2#8] [0xFF#8, 0xFF#8] 0#32
    s.maskLen = s.patLen ∧ s.maskBase.toNat + s.maskLen.toNat ≤ s.config.wmemSize
      ∧ ∀ k, k < 2 → s.wmem.read (s.maskBase.toNat + k) = 0xFF#8 := by decide

/-- Each of MPEG_DECODE's clauses, at a boundary (95_test_vectors M30 to M36 by hand). -/
theorem test_witness_MpegFailuresInOrder :
    outcome .mpegDecode (sized 0x4003 frame) = some (0x521, 0xFFFFFFFF)
      ∧ outcome .mpegDecode { frame with srcPos := 1#32 } = some (0x5B4, 0xFFFFFFFF)
      ∧ outcome .mpegDecode (onStream [0xFF#8, 0xDB#8, 0x32#8, 0x00#8] 4#32 0#32) = some (0x583, 0xFFFFFFFF)
      ∧ outcome .mpegDecode (onStream [0xFF#8, 0xE9#8, 0x32#8, 0x00#8] 4#32 0#32) = some (0x593, 0xFFFFFFFF)
      ∧ outcome .mpegDecode (onStream [0xFF#8, 0xF9#8, 0x32#8, 0x00#8] 4#32 0#32) = some (0x5A3, 0xFFFFFFFF)
      ∧ outcome .mpegDecode (sized 0x4004 frame) = some (0x500, 0) := by decide

/-- For MpegDecodePacksHeaderFields, MpegDecodeLooksUpRates, MpegDecodeComputesFrameSize and
DefaultTablesFrameSizeBound: the frame example, and a header with INVALID rates. -/
theorem test_witness_MpegReady :
    (mpegReady (sized 0x4004 frame) ∧ frame.config = defaultConfig)
      ∧ mpegReady (onStream [0xFF#8, 0xE7#8, 0xFF#8, 0xFF#8] 4#32 0#32) := by
  unfold mpegReady; decide

/-- Both ends of MpegCursorAdvancesOnSuccessOnly and ParsedExactlyAfterOkDecode. -/
theorem test_witness_MpegKinds :
    (outcome .mpegDecode frame).map (fun p => p.1 % 8) = some 0
      ∧ (outcome .mpegDecode { frame with srcPos := 1#32 }).map (fun p => p.1 % 8) = some 4
      ∧ (0x00000015#32).toNat % 16 = 5 ∧ (0x00000015#32) ≠ 0x00000005#32 := by decide

/-- Header bits 8 and 5..0 set in the other memory. -/
theorem test_witness_MpegIgnoresUnreadHeaderBits :
    let m : Memory := [(0x4000, 0xFF#8), (0x4001, 0xFB#8), (0x4002, 0x33#8), (0x4003, 0x3F#8)]
    m ≠ frame.wmem
      ∧ headerWord { frame with wmem := m } &&& 0xFFFFFEC0#32 = headerWord frame &&& 0xFFFFFEC0#32 := by decide

theorem test_witness_RegisterCommandsWriteOnlyOutcome :
    ∀ i ∈ [Instr.extract, .syncsafe, .findMasked, .findBytes], i ≠ .mpegDecode := by decide

/-- A failing command word of each kind. -/
theorem test_witness_FailuresArePrecise :
    (statusAfter 0x00000001#32 State.reset).map (· % 8) = some 1
      ∧ (statusAfter 0x00000005#32 State.reset).map (· % 8) = some 4
      ∧ (statusAfter 0x00000015#32 State.reset).map (· % 8) = some 5 := by decide

/-- Another memory that agrees on the data window only. -/
theorem test_witness_CommandsDependOnlyOnNamedWindows :
    let s := bits 1#32 0#32 8#32
    let m : Memory := [(0x0FFF, 0x99#8), (0x1000, 0x4F#8)]
    m ≠ s.wmem ∧ ∀ a, named .extract s a → m.read a = s.wmem.read a := by
  refine ⟨by decide, fun a h => ?_⟩
  have h1 : 0x1000 ≤ a := h.1
  have h2 : a < 0x1000 + 1 := h.2
  obtain rfl : a = 0x1000 := by omega
  decide

/-- For OnlyDecodeAndResetChangeHeader and OnlySeekDecodeAndResetMoveCursor: a decode and a reset that change the header and the cursor, and a seek that moves the cursor. -/
theorem test_witness_OnlyDecodeAndResetChange :
    (next? (step (before (.regWrite 32 0x00 0x00000005#32) frame))).map (fun t => (t.fh, t.srcPos))
        = some (some frameHeader, 4#32)
      ∧ (next? (step (before .platformReset { frame with fh := some frameHeader, srcPos := 4#32 }))).map
        (fun t => (t.fh, t.srcPos)) = some (none, 0#32)
      ∧ (next? (step (before (.regWrite 32 0x48 7#32) frame))).map (fun t => t.srcPos) = some 7#32 := by decide

/-- A write of two bytes that exist, up to the last byte of WMEM, and an access that writes none. -/
theorem test_witness_OnlyHostWritesChangeWmem :
    (next? (step (before (.wmemWrite 0xFFFFFFFE [1#8, 2#8]) State.reset))).map State.wmem
        = some [(0xFFFFFFFE, 1#8), (0xFFFFFFFF, 2#8)]
      ∧ (next? (step (before (.regRead 32 0x04) frame))).map State.wmem = some frame.wmem := by decide

theorem test_witness_StepTakesOneAccessAndKeepsConfig :
    (next? (step (before (.regRead 32 0x04) (before .platformReset State.reset)))).map State.hostProgram
      = some [.platformReset] := by decide

theorem test_witness_IdleStepHoldsState : State.reset.hostProgram = [] := rfl

/-- Defined and undefined accesses on both sides of each bound. -/
theorem test_witness_StepStopsExactlyOnUndefinedAccess :
    (HostAccess.regWrite 32 0xFC 0#32).defined defaultConfig ∧ ¬ (HostAccess.regWrite 32 0x100 0#32).defined defaultConfig
      ∧ ¬ (HostAccess.regWrite 16 0x00 0#32).defined defaultConfig ∧ ¬ (HostAccess.regRead 32 0x02).defined defaultConfig
      ∧ (HostAccess.regRead 32 0x00).defined defaultConfig
      ∧ (HostAccess.wmemWrite 0xFFFFFFFF [1#8]).defined defaultConfig
      ∧ ¬ (HostAccess.wmemWrite 0xFFFFFFFF [1#8, 2#8]).defined defaultConfig := by
  simp only [HostAccess.defined]; decide

/-- The model stops under the three refusals and the fault, each by its name (log entries 7 and 9). -/
theorem test_stops_by_name :
    step (before (.regWrite 8 0x02 0#32) State.reset) = .refused .accessWidth
      ∧ step (before (.regRead 32 0x102) State.reset) = .refused .accessUnaligned
      ∧ step (before (.regRead 32 0x100) State.reset) = .refused .accessOffset
      ∧ step (before (.wmemWrite 0x100000000 [1#8]) State.reset) = .fault .wmemAddress := ⟨rfl, rfl, rfl, rfl⟩

/-- For StepKeepsOutcomeLegal, StepKeepsMemoryLegal and StepKeepsHeaderCoherent: the invariants hold, and a step goes on, with a header stored and WMEM listed. -/
theorem test_witness_StepKeepsInvariants :
    let s : State := { before .platformReset frame with fh := some frameHeader, status := 0x500#32 }
    (s.outcomeLegal ∧ s.memoryLegal ∧ s.headerCoherent) ∧ (next? (step s)).isSome = true := by decide

theorem test_witness_RegisterWriteReadsBack : ∀ r ∈ [Reg.argA, .srcPos], r ∈ readWriteRegs := by decide

/-- Reserved offsets at the ends and between registers; a legal STATUS. -/
theorem test_witness_ReservedAndReadOnlyWritesIgnored :
    (∀ off ∈ [0x0C, 0x18, 0x4C, 0x60, 0xFC], off < 0x100 ∧ off % 4 = 0 ∧ off ∉ registerOffsets)
      ∧ legalStatus 0x0FD5#32 ∧ legalStatus 0#32 := by decide

/-- No header, a header with three values, and one with two ERR values (95_test_vectors M13). -/
theorem test_witness_HeaderRegisterViews :
    frame.fh = none ∧ (next? (exec .mpegDecode frame)).map State.fh = some (some frameHeader)
      ∧ (next? (exec .mpegDecode (onStream [0xFF#8, 0xFB#8, 0xF0#8, 0x00#8] 4#32 0#32))).map
        (fun t => t.fh.map fun h => (h.bitrate, h.samplingRate, h.frameSize))
        = some (some (.err, .value 44100#31, .err)) := by decide

theorem test_witness_WmemWriteReadsBack :
    frame.memoryLegal ∧ 0xFFFFFFFE + [1#8, 2#8].length ≤ frame.config.wmemSize := by decide

end Sys2Proof.Tests
end

section
/-! SUPPORT. Proofs of the statements of 00_scope: what a command and a host access leave unchanged, and the reset
state. -/

namespace Sys2Proof.Proofs

open Sys2Proof.Machine Sys2Proof.Claim

/-! The frame of a command -/

/-- `t` is `s` but for the fields a command may write: STATUS, RESULT, FH and SRC_POS (10_state R22,
20_memory R53). -/
def CommandFrame (s t : State) : Prop :=
  t = { s with status := t.status, result := t.result, fh := t.fh, srcPos := t.srcPos }

theorem CommandFrame.config {s t : State} (h : CommandFrame s t) : t.config = s.config := by
  unfold CommandFrame at h
  rw [h]

theorem CommandFrame.hostProgram {s t : State} (h : CommandFrame s t) : t.hostProgram = s.hostProgram := by
  unfold CommandFrame at h
  rw [h]

theorem raise_commandFrame (s : State) (o : BitVec 4) (k : Kind) (c : Cause) : CommandFrame s (s.raise o k c) := rfl

theorem finish_commandFrame (s : State) (o : BitVec 4) (v : Word) : CommandFrame s (s.finish o v) := rfl

theorem failDecode_commandFrame (s : State) (k : Kind) (c : Cause) : CommandFrame s (s.failDecode k c) := rfl

theorem acceptDecode_commandFrame (s : State) (h : FrameHeader) : CommandFrame s (s.acceptDecode h) := rfl

theorem endSearch_commandFrame (s : State) (o : BitVec 4) (r : SearchResult) :
    CommandFrame s (s.endSearch o r) := by
  cases r with
  | found j => exact finish_commandFrame s o _
  | notFound => exact raise_commandFrame s o .notFound .none

theorem illegal_commandFrame (s : State) (c : Word) (e : IllegalWord) : CommandFrame s (s.illegal c e) := by
  cases e <;> exact raise_commandFrame s _ _ _

/-- Each command ends in one of the shared ways, and each of these keeps the frame. -/
theorem exec_commandFrame {i : Instr} {s t : State} (h : exec i s = .next t) : CommandFrame s t := by
  cases i with
  | extract =>
    rcases execExtract_cases s with ⟨c, -, h'⟩ | ⟨-, h'⟩ <;> cases h'.symm.trans h
    · exact raise_commandFrame s _ _ c
    · exact finish_commandFrame s _ _
  | syncsafe =>
    rcases execSyncsafe_cases s with ⟨c, -, h'⟩ | ⟨-, h'⟩ <;> cases h'.symm.trans h
    · exact raise_commandFrame s _ _ c
    · exact finish_commandFrame s _ _
  | findMasked =>
    rcases execFindMasked_cases s with ⟨c, -, h'⟩ | ⟨-, h'⟩ <;> cases h'.symm.trans h
    · exact raise_commandFrame s _ _ c
    · exact endSearch_commandFrame s _ _
  | findBytes =>
    rcases execFindBytes_cases s with ⟨c, -, h'⟩ | ⟨-, h'⟩ <;> cases h'.symm.trans h
    · exact raise_commandFrame s _ _ c
    · exact endSearch_commandFrame s _ _
  | mpegDecode =>
    rcases execMpegDecode_cases s with ⟨-, h'⟩ | ⟨-, -, h'⟩ | ⟨-, -, ⟨c, -, h'⟩ | ⟨hdr, -, h'⟩⟩ <;>
      cases h'.symm.trans h
    · exact failDecode_commandFrame s _ _
    · exact failDecode_commandFrame s _ _
    · exact failDecode_commandFrame s _ c
    · exact acceptDecode_commandFrame s hdr

/-- A command word keeps the frame, whether it is legal or not. -/
theorem command_commandFrame {c : Word} {s t : State} (h : command c s = .next t) : CommandFrame s t := by
  rcases command_cases c s with ⟨i, -, h'⟩ | ⟨e, -, h'⟩
  · exact exec_commandFrame (h'.symm.trans h)
  · cases h'.symm.trans h
    exact illegal_commandFrame s c e

/-! Host accesses and steps -/

/-- No host access writes the configuration or the accesses that wait behind it (00_scope R6, 20_memory R62). -/
theorem hostAccess_keeps_program_config {a : HostAccess} {s t : State} (h : hostAccess a s = .next t) :
    t.hostProgram = s.hostProgram ∧ t.config = s.config := by
  rcases hostAccess_next h with ⟨c, -, h⟩ | ⟨r, v, -, -, rfl⟩ | ⟨_, _, -, -, rfl⟩ | ⟨_, -, rfl⟩
    | ⟨_, _, -, -, rfl⟩ | ⟨-, rfl⟩
  · have hframe := command_commandFrame h
    exact ⟨hframe.hostProgram, hframe.config⟩
  · exact ⟨s.writeReg_hostProgram r v, s.writeReg_config r v⟩
  · exact ⟨rfl, rfl⟩
  · exact ⟨rfl, rfl⟩
  · exact ⟨rfl, rfl⟩
  · exact ⟨s.platformReset_hostProgram, s.platformReset_config⟩

/-- A step takes the waiting access off the host program and performs it on the rest (20_memory R62). -/
theorem step_before (a : HostAccess) (s : State) : step (before a s) = hostAccess a s := step_cons rfl

/-- Settles O42: the step is the waiting access on the state behind it, and no access writes the two fields. -/
theorem stepTakesOneAccessAndKeepsConfig : Obligations.StepTakesOneAccessAndKeepsConfig := by
  intro a s t h
  rw [step_before] at h
  exact hostAccess_keeps_program_config h

/-! The reset state -/

/-- The default parameters meet the constraints of 00_scope R7 and 43_mpeg R182: a finite check of the size and of
the cells the constraints name. -/
theorem defaultConfig_wf : defaultConfig.wf := by
  have hsize : defaultConfig.sizeLegal := ⟨by decide, le_refl _⟩
  have hbitrate : defaultConfig.bitrateReserved := by decide
  have hsrate : defaultConfig.srateReserved := by decide
  exact ⟨hsize, hbitrate, hsrate, rfl, rfl⟩

/-- An empty WMEM list is canonical and lists no address outside WMEM. -/
theorem reset_memoryLegal : State.reset.memoryLegal := ⟨Memory.wf_nil, List.forall_mem_nil _⟩

/-- STATUS = 0 is the reset value, with KIND = OK and the OPC of no command. -/
theorem reset_outcomeLegal : State.reset.outcomeLegal := by
  have hkind : statusKind State.reset.status = 0#3 := by decide
  exact ⟨.inl rfl, fun h => absurd hkind h, fun _ => rfl, fun _ => by decide⟩

/-- The decoder is in Seeking: no header is stored. -/
theorem reset_headerCoherent : State.reset.headerCoherent := fun _ h => nomatch h

/-- Settles O48, one lemma for each part of the invariant. -/
theorem resetMeetsInvariants : Obligations.ResetMeetsInvariants :=
  ⟨defaultConfig_wf, reset_memoryLegal, reset_outcomeLegal, reset_headerCoherent⟩

end Sys2Proof.Proofs
end

section
/-! SUPPORT. Proofs of the statements of 10_state: how a command ends, STATUS and RESULT, the frame header and the
cursor, and the register map. -/

namespace Sys2Proof.Proofs

open Sys2Proof.Machine Sys2Proof.Claim

/-! The STATUS word -/

/-- STATUS as a number: KIND in bits 2..0, CAUSE in bits 7..4, OPC in bits 11..8 (30_encoding R80). -/
theorem statusWord_toNat (o : BitVec 4) (k : Kind) (c : Cause) :
    (statusWord o k c).toNat = o.toNat * 256 + c.code.toNat * 16 + k.code.toNat := by
  simp only [statusWord, append_toNat, BitVec.toNat_ofNat]
  omega

@[simp] theorem statusKind_statusWord (o : BitVec 4) (k : Kind) (c : Cause) :
    statusKind (statusWord o k c) = k.code := by
  apply BitVec.eq_of_toNat_eq
  simp only [statusKind, BitVec.extractLsb'_toNat, statusWord_toNat, Nat.shiftRight_zero]
  omega

@[simp] theorem statusCause_statusWord (o : BitVec 4) (k : Kind) (c : Cause) :
    statusCause (statusWord o k c) = c.code := by
  apply BitVec.eq_of_toNat_eq
  simp only [statusCause, BitVec.extractLsb'_toNat, statusWord_toNat, Nat.shiftRight_eq_div_pow]
  omega

@[simp] theorem statusOpc_statusWord (o : BitVec 4) (k : Kind) (c : Cause) :
    statusOpc (statusWord o k c) = o := by
  apply BitVec.eq_of_toNat_eq
  simp only [statusOpc, BitVec.extractLsb'_toNat, statusWord_toNat, Nat.shiftRight_eq_div_pow]
  omega

/-- The reserved bits 3 and 31..12 of a status word are 0 (10_state R24). -/
theorem statusWord_reserved (o : BitVec 4) (k : Kind) (c : Cause) :
    (statusWord o k c).getLsbD 3 = false ∧ (statusWord o k c).extractLsb' 12 20 = 0#20 := by
  constructor
  · rw [BitVec.getLsbD, statusWord_toNat, Nat.testBit_eq_decide_div_mod_eq, decide_eq_false_iff_not]
    omega
  · apply BitVec.eq_of_toNat_eq
    simp only [BitVec.extractLsb'_toNat, statusWord_toNat, Nat.shiftRight_eq_div_pow, BitVec.toNat_ofNat]
    omega

@[simp] theorem kind_code_eq_zero (k : Kind) : k.code = 0#3 ↔ k = .ok := by cases k <;> decide

/-- KIND read as `STATUS mod 8` is 0 exactly for OK (30_encoding R78). -/
theorem statusWord_mod_eight (o : BitVec 4) (k : Kind) (c : Cause) :
    (statusWord o k c).toNat % 8 = 0 ↔ k = .ok := by
  rw [← kind_code_eq_zero, ← BitVec.toNat_inj, statusWord_toNat, BitVec.toNat_ofNat]
  omega

/-- Only OPC = 0 with KIND = OK and CAUSE = NONE gives the reset value. -/
theorem statusWord_ne_zero {o : BitVec 4} {k : Kind} {c : Cause} (h : k ≠ .ok ∨ o ≠ 0#4) :
    statusWord o k c ≠ 0#32 := by
  intro h0
  rcases h with hk | ho
  · have hkind := statusKind_statusWord o k c
    rw [h0] at hkind
    exact hk ((kind_code_eq_zero k).mp hkind.symm)
  · have hopc := statusOpc_statusWord o k c
    rw [h0] at hopc
    exact ho hopc.symm

theorem opcode_ne_zero (i : Instr) : i.opcode ≠ 0#4 := by cases i <;> decide

theorem failureStatus_kind_ne_ok (w : Word) (h : w ∈ failureStatus) : statusKind w ≠ 0#3 := by
  have hall : failureStatus.all (fun w => statusKind w != 0#3) = true := rfl
  exact bne_iff_ne.mp (List.all_eq_true.mp hall w h)

theorem illegalStatus_kind_ne_ok (w : Word) (h : w ∈ illegalStatus) : statusKind w ≠ 0#3 := by
  have hall : illegalStatus.all (fun w => statusKind w != 0#3) = true := rfl
  exact bne_iff_ne.mp (List.all_eq_true.mp hall w h)

/-- A failing command's KIND is not OK. -/
theorem kind_ne_ok_of_mem_failureStatus {o : BitVec 4} {k : Kind} {c : Cause}
    (h : statusWord o k c ∈ failureStatus) : k ≠ .ok := by
  have hkind := failureStatus_kind_ne_ok _ h
  rwa [statusKind_statusWord, Ne, kind_code_eq_zero] at hkind

/-- Every STATUS the block can hold has its reserved bits 0: each of the listed words does. -/
theorem legalStatus_reserved {w : Word} (h : legalStatus w) :
    w.getLsbD 3 = false ∧ w.extractLsb' 12 20 = 0#20 := by
  have hall : (0#32 :: successStatus ++ failureStatus ++ illegalStatus).all
      (fun w => !w.getLsbD 3 && w.extractLsb' 12 20 == 0#20) = true := rfl
  have hmem : w ∈ 0#32 :: successStatus ++ failureStatus ++ illegalStatus := by
    simpa only [List.mem_append, List.mem_cons, or_assoc] using h
  simpa using List.all_eq_true.mp hall w hmem

/-! Decoded and illegal words -/

/-- A word that decodes is its command's word (30_encoding R72). -/
theorem eq_encode_of_decode {c : Word} {i : Instr} (h : decode c = .ok i) : c = encode i := by
  have hfields : rsvField c = 0#28 ∧ opcField c = i.opcode := by
    unfold decode at h
    split_ifs at h with hrsv <;> cases h <;> exact ⟨not_not.mp hrsv, ‹_›⟩
  calc c = rsvField c ++ opcField c := by
        unfold rsvField opcField
        rw [BitVec.extractLsb'_append_extractLsb'_eq_extractLsb' (by rfl)]
        simp
    _ = encode i := by rw [hfields.1, hfields.2]; rfl

theorem opcField_of_decode {c : Word} {i : Instr} (h : decode c = .ok i) : opcField c = i.opcode := by
  rw [eq_encode_of_decode h]
  cases i <;> decide

/-- The CAUSE an illegal word is given (30_encoding R73, R74). -/
def illegalCause : IllegalWord → Cause
  | .reservedCmdBits => .reservedCmdBits
  | .badOpcode => .badOpcode

theorem illegal_eq_raise (s : State) (c : Word) (e : IllegalWord) :
    s.illegal c e = s.raise (opcField c) .illegalCommand (illegalCause e) := by cases e <;> rfl

/-- A word with clear reserved bits is illegal for an OPC outside 1 to 5 only (30_encoding R73). -/
theorem opcField_of_badOpcode {c : Word} (h : decode c = .error .badOpcode) :
    opcField c ≠ 1#4 ∧ opcField c ≠ 2#4 ∧ opcField c ≠ 3#4 ∧ opcField c ≠ 4#4 ∧ opcField c ≠ 5#4 := by
  unfold decode at h
  split_ifs at h with _ h1 h2 h3 h4 h5
  · cases h
  · exact ⟨h1, h2, h3, h4, h5⟩

/-- The STATUS of an illegal word is one of those 60 R221 lists. -/
theorem illegal_status_mem {c : Word} {e : IllegalWord} (h : decode c = .error e) :
    statusWord (opcField c) .illegalCommand (illegalCause e) ∈ illegalStatus := by
  cases e with
  | reservedCmdBits =>
    have hall : ∀ o : BitVec 4, statusWord o .illegalCommand .reservedCmdBits ∈ illegalStatus := by decide
    exact hall (opcField c)
  | badOpcode =>
    have hall : ∀ o : BitVec 4, o ≠ 1#4 ∧ o ≠ 2#4 ∧ o ≠ 3#4 ∧ o ≠ 4#4 ∧ o ≠ 5#4 →
        statusWord o .illegalCommand .badOpcode ∈ illegalStatus := by decide
    exact hall (opcField c) (opcField_of_badOpcode h)

/-! How a command ends -/

/-- The ends of a command (00_scope R12): `fail` and `finish` for the register commands, a value below 2^29 after
SYNCSAFE (41_syncsafe R123), and their forms that write the frame header for MPEG_DECODE. -/
inductive CommandEnd (s : State) : Instr → State → Prop
  | raised {i : Instr} {k : Kind} {c : Cause} (hi : i ≠ .mpegDecode)
      (hst : statusWord i.opcode k c ∈ failureStatus) : CommandEnd s i (s.raise i.opcode k c)
  | finished {i : Instr} {v : Word} (hi : i ≠ .mpegDecode) (hv : i = .syncsafe → v.toNat < 2 ^ 29) :
      CommandEnd s i (s.finish i.opcode v)
  | failed {k : Kind} {c : Cause} (hst : statusWord 5#4 k c ∈ failureStatus) :
      CommandEnd s .mpegDecode (s.failDecode k c)
  | accepted (h : FrameHeader) : CommandEnd s .mpegDecode (s.acceptDecode h)

theorem extractCheck_status {s : State} {c : Cause} (h : extractCheck s = some c) :
    statusWord 1#4 .invalidArgument c ∈ failureStatus := by
  unfold extractCheck at h
  split_ifs at h <;> cases h <;> decide

theorem syncsafeCheck_status {s : State} {c : Cause} (h : syncsafeCheck s = some c) :
    statusWord 2#4 .invalidArgument c ∈ failureStatus := by
  unfold syncsafeCheck at h
  split_ifs at h <;> cases h <;> decide

theorem findMaskedCheck_status {s : State} {c : Cause} (h : findMaskedCheck s = some c) :
    statusWord 3#4 .invalidArgument c ∈ failureStatus := by
  unfold findMaskedCheck at h
  split_ifs at h <;> cases h <;> decide

theorem findBytesCheck_status {s : State} {c : Cause} (h : findBytesCheck s = some c) :
    statusWord 4#4 .invalidArgument c ∈ failureStatus := by
  unfold findBytesCheck at h
  split_ifs at h <;> cases h <;> decide

theorem decodeHeader_status {cfg : Config} {r : Nat → Byte} {c : Cause} (h : decodeHeader cfg r = .error c) :
    statusWord 5#4 .formatMismatch c ∈ failureStatus := by
  rcases decodeHeader_cases cfg r with ⟨c', h', hc⟩ | ⟨v, l, h'⟩ <;> cases h'.symm.trans h
  rcases hc with rfl | rfl | rfl <;> decide

/-- SYNCSAFE's value has 29 bits: the first byte's bit 7 is its highest place (41_syncsafe R123). -/
theorem syncsafeValue_lt (buf : Nat → Byte) (si : Nat) : (syncsafeValue buf si).toNat < 2 ^ 29 := by
  have hshift : ∀ (b : Byte) (k : Nat), k ≤ 21 → (b.setWidth 32 <<< k).toNat < 2 ^ 29 := by
    intro b k hk
    have hpow : 2 ^ k ≤ 2 ^ 21 := Nat.pow_le_pow_right (by omega) hk
    have hmul : b.toNat * 2 ^ k ≤ 255 * 2 ^ 21 := Nat.mul_le_mul (by omega) hpow
    rw [BitVec.toNat_shiftLeft, BitVec.toNat_setWidth, Nat.shiftLeft_eq, Nat.mod_eq_of_lt (by omega : b.toNat < 2 ^ 32)]
    exact lt_of_le_of_lt (Nat.mod_le _ _) (by omega)
  have hlast : ((buf (si + 3)).setWidth 32).toNat < 2 ^ 29 := by
    rw [BitVec.toNat_setWidth]
    omega
  rw [syncsafeValue_eq]
  simp only [BitVec.toNat_or]
  exact Nat.or_lt_two_pow (Nat.or_lt_two_pow (Nat.or_lt_two_pow (hshift _ 21 (by omega)) (hshift _ 14 (by omega)))
    (hshift _ 7 (by omega))) hlast

/-- A search ends with `finish` or NOT_FOUND (42_search R140, R145). -/
theorem endSearch_end {s : State} {i : Instr} (hi : i = .findMasked ∨ i = .findBytes) (r : SearchResult) :
    CommandEnd s i (s.endSearch i.opcode r) := by
  have hmpeg : i ≠ .mpegDecode := by rcases hi with rfl | rfl <;> decide
  cases r with
  | found j => exact .finished hmpeg (by rcases hi with rfl | rfl <;> simp)
  | notFound => exact .raised hmpeg (by rcases hi with rfl | rfl <;> decide)

/-- Every command ends in one of these ways, on every state. -/
theorem exec_end {i : Instr} {s t : State} (h : exec i s = .next t) : CommandEnd s i t := by
  cases i with
  | extract =>
    rcases execExtract_cases s with ⟨c, hc, h'⟩ | ⟨-, h'⟩ <;> cases h'.symm.trans h
    · exact .raised (i := .extract) (by decide) (extractCheck_status hc)
    · exact .finished (i := .extract) (by decide) (by simp)
  | syncsafe =>
    rcases execSyncsafe_cases s with ⟨c, hc, h'⟩ | ⟨-, h'⟩ <;> cases h'.symm.trans h
    · exact .raised (i := .syncsafe) (by decide) (syncsafeCheck_status hc)
    · exact .finished (i := .syncsafe) (by decide) fun _ => syncsafeValue_lt _ _
  | findMasked =>
    rcases execFindMasked_cases s with ⟨c, hc, h'⟩ | ⟨-, h'⟩ <;> cases h'.symm.trans h
    · exact .raised (i := .findMasked) (by decide) (findMaskedCheck_status hc)
    · exact endSearch_end (.inl rfl) _
  | findBytes =>
    rcases execFindBytes_cases s with ⟨c, hc, h'⟩ | ⟨-, h'⟩ <;> cases h'.symm.trans h
    · exact .raised (i := .findBytes) (by decide) (findBytesCheck_status hc)
    · exact endSearch_end (.inr rfl) _
  | mpegDecode =>
    rcases execMpegDecode_cases s with ⟨-, h'⟩ | ⟨-, -, h'⟩ | ⟨-, -, ⟨c, hc, h'⟩ | ⟨hdr, -, h'⟩⟩ <;>
      cases h'.symm.trans h
    · exact .failed (by decide)
    · exact .failed (by decide)
    · exact .failed (decodeHeader_status hc)
    · exact .accepted hdr

/-- Every command word, legal or not, answers a next state (70 R253). -/
theorem command_next (c : Word) (s : State) : ∃ t, command c s = .next t := by
  rcases command_cases c s with ⟨i, -, h⟩ | ⟨e, -, h⟩
  · obtain ⟨t, ht⟩ := exec_next i s
    exact ⟨t, h.trans ht⟩
  · exact ⟨_, h⟩

theorem step_beforeCmd (c : Word) (s : State) : step (beforeCmd c s) = command c s := step_before _ s

theorem command_of_decode {c : Word} {i : Instr} (h : decode c = .ok i) (s : State) : command c s = exec i s := by
  simp only [command, h]

theorem command_of_illegal {c : Word} {e : IllegalWord} (h : decode c = .error e) (s : State) :
    command c s = .next (s.illegal c e) := by
  simp only [command, h]

/-! STATUS and RESULT stay legal -/

/-- A failing end is legal: RESULT is the sentinel, and the two OK words are none of its STATUS words. -/
theorem raise_outcomeLegal {s : State} {o : BitVec 4} {k : Kind} {c : Cause}
    (h : statusWord o k c ∈ failureStatus ∨ statusWord o k c ∈ illegalStatus) : (s.raise o k c).outcomeLegal := by
  have hkind : statusKind (statusWord o k c) ≠ 0#3 :=
    h.elim (failureStatus_kind_ne_ok _) (illegalStatus_kind_ne_ok _)
  refine ⟨.inr (.inr h), fun _ => rfl, fun h5 => ?_, fun h2 => ?_⟩
  · exact absurd (congrArg statusKind h5) hkind
  · exact absurd (congrArg statusKind h2) hkind

/-- An OK end is legal when RESULT keeps the bound of the command whose OPC it carries. -/
theorem finish_outcomeLegal {s : State} {i : Instr} {v : Word} (h5 : i = .mpegDecode → v = 0#32)
    (h2 : i = .syncsafe → v.toNat < 2 ^ 29) : (s.finish i.opcode v).outcomeLegal := by
  have hmem : ∀ i : Instr, statusWord i.opcode .ok .none ∈ successStatus := by intro i; cases i <;> decide
  have hmpeg : statusWord i.opcode .ok .none = 0x500#32 → i = .mpegDecode := by cases i <;> decide
  have hsync : statusWord i.opcode .ok .none = 0x200#32 → i = .syncsafe := by cases i <;> decide
  refine ⟨.inr (.inl (hmem i)), fun hkind => ?_, fun h => h5 (hmpeg h), fun h => h2 (hsync h)⟩
  exact absurd (statusKind_statusWord i.opcode .ok .none) hkind

theorem CommandEnd.outcomeLegal {s : State} {i : Instr} {t : State} (h : CommandEnd s i t) : t.outcomeLegal := by
  cases h with
  | raised hi hst => exact raise_outcomeLegal (.inl hst)
  | finished hi hv => exact finish_outcomeLegal (fun h5 => absurd h5 hi) hv
  | failed hst => exact raise_outcomeLegal (s := s) (.inl hst)
  | accepted hdr => exact finish_outcomeLegal (s := s) (i := .mpegDecode) (fun _ => rfl) (fun h => nomatch h)

theorem command_outcomeLegal {c : Word} {s t : State} (h : command c s = .next t) : t.outcomeLegal := by
  rcases command_cases c s with ⟨i, -, h'⟩ | ⟨e, he, h'⟩
  · exact (exec_end (h'.symm.trans h)).outcomeLegal
  · cases h'.symm.trans h
    rw [illegal_eq_raise]
    exact raise_outcomeLegal (.inr (illegal_status_mem he))

/-- A state with the same STATUS and RESULT is as legal. -/
theorem outcomeLegal_of_eq {s t : State} (h : s.outcomeLegal) (hst : t.status = s.status)
    (hres : t.result = s.result) : t.outcomeLegal := by
  unfold State.outcomeLegal
  rw [hst, hres]
  exact h

/-- Only a command word and the platform reset write STATUS and RESULT, and both leave them legal. -/
theorem hostAccess_outcomeLegal {a : HostAccess} {s t : State} (hs : s.outcomeLegal)
    (h : hostAccess a s = .next t) : t.outcomeLegal := by
  rcases hostAccess_next h with ⟨c, -, h⟩ | ⟨r, v, -, -, rfl⟩ | ⟨_, _, -, -, rfl⟩ | ⟨_, -, rfl⟩
    | ⟨_, _, -, -, rfl⟩ | ⟨-, rfl⟩
  · exact command_outcomeLegal h
  · exact outcomeLegal_of_eq hs (s.writeReg_status r v) (s.writeReg_result r v)
  · exact hs
  · exact hs
  · exact hs
  · exact outcomeLegal_of_eq reset_outcomeLegal rfl rfl

/-- Settles O45: an idle step holds the state, and every host access keeps STATUS and RESULT legal. -/
theorem stepKeepsOutcomeLegal : Obligations.StepKeepsOutcomeLegal := by
  intro s t hs h
  rcases step_next h with ⟨-, rfl⟩ | ⟨a, rest, -, h'⟩
  · exact hs
  · exact hostAccess_outcomeLegal (s := { s with hostProgram := rest }) hs h'

/-- A command's STATUS is a status word with the command's opcode. -/
theorem CommandEnd.status {s : State} {i : Instr} {t : State} (h : CommandEnd s i t) :
    ∃ k c, t.status = statusWord i.opcode k c := by
  cases h with
  | raised _ _ => exact ⟨_, _, rfl⟩
  | finished _ _ => exact ⟨_, _, rfl⟩
  | failed _ => exact ⟨_, _, rfl⟩
  | accepted _ => exact ⟨_, _, rfl⟩

/-- Every command word leaves a status word with its own OPC field, and not the reset value. -/
theorem command_status {c : Word} {s t : State} (h : command c s = .next t) :
    ∃ k cause, t.status = statusWord (opcField c) k cause ∧ (k ≠ .ok ∨ opcField c ≠ 0#4) := by
  rcases command_cases c s with ⟨i, hi, h'⟩ | ⟨e, -, h'⟩
  · obtain ⟨k, cause, hst⟩ := (exec_end (h'.symm.trans h)).status
    rw [opcField_of_decode hi]
    exact ⟨k, cause, hst, .inr (opcode_ne_zero i)⟩
  · cases h'.symm.trans h
    rw [illegal_eq_raise]
    exact ⟨.illegalCommand, illegalCause e, rfl, .inl (by decide)⟩

/-- Settles O6: the STATUS a command word leaves is a status word with the word's OPC field. -/
theorem everyCommandWordCompletes : Obligations.EveryCommandWordCompletes := by
  intro c s
  obtain ⟨t, ht⟩ := command_next c s
  obtain ⟨k, cause, hst, hne⟩ := command_status ht
  refine ⟨t, (step_beforeCmd c s).trans ht, ?_⟩
  rw [hst]
  exact ⟨statusWord_ne_zero hne, statusOpc_statusWord _ k cause, statusWord_reserved _ k cause⟩

/-- Settles O5: `command` on a word that decodes, and on either kind of illegal word. -/
theorem stepRunsDecodedCommand : Obligations.StepRunsDecodedCommand := by
  intro c s
  rw [step_beforeCmd]
  refine ⟨fun i hi => command_of_decode hi s, fun he => ?_, fun he => ?_⟩
  · exact ⟨_, command_of_illegal he s, statusCause_statusWord _ .illegalCommand .reservedCmdBits⟩
  · exact ⟨_, command_of_illegal he s, statusCause_statusWord _ .illegalCommand .badOpcode⟩

/-! What a command leaves unchanged -/

/-- `t` is `s` but for STATUS and RESULT. -/
def OutcomeFrame (s t : State) : Prop := t = { s with status := t.status, result := t.result }

theorem OutcomeFrame.fh {s t : State} (h : OutcomeFrame s t) : t.fh = s.fh := by
  unfold OutcomeFrame at h
  rw [h]

theorem OutcomeFrame.srcPos {s t : State} (h : OutcomeFrame s t) : t.srcPos = s.srcPos := by
  unfold OutcomeFrame at h
  rw [h]

theorem CommandFrame.wmem {s t : State} (h : CommandFrame s t) : t.wmem = s.wmem := by
  unfold CommandFrame at h
  rw [h]

theorem exec_outcomeFrame {i : Instr} (hi : i ≠ .mpegDecode) {s t : State} (h : exec i s = .next t) :
    OutcomeFrame s t := by
  cases exec_end h with
  | raised _ _ => rfl
  | finished _ _ => rfl
  | failed _ => exact absurd rfl hi
  | accepted _ => exact absurd rfl hi

/-- Of all command words, only MPEG_DECODE's writes more than STATUS and RESULT (60 R222). -/
theorem command_outcomeFrame {c : Word} (hc : c ≠ 0x00000005#32) {s t : State} (h : command c s = .next t) :
    OutcomeFrame s t := by
  rcases command_cases c s with ⟨i, hi, h'⟩ | ⟨e, -, h'⟩
  · have hmpeg : i ≠ .mpegDecode := by
      rintro rfl
      exact hc (eq_encode_of_decode hi)
    exact exec_outcomeFrame hmpeg (h'.symm.trans h)
  · cases h'.symm.trans h
    rw [illegal_eq_raise]
    rfl

/-- Settles O33 from the frame of the four commands. -/
theorem registerCommandsWriteOnlyOutcome : Obligations.RegisterCommandsWriteOnlyOutcome := by
  intro i s hi
  obtain ⟨t, ht⟩ := exec_next i s
  exact ⟨t, ht, exec_outcomeFrame hi ht, fun a => by rw [(exec_commandFrame ht).wmem]⟩

/-- Settles O34: the frame of every command, and SRC_POS in the two ends of MPEG_DECODE. -/
theorem mpegDecodeWritesOnlyItsRegisters : Obligations.MpegDecodeWritesOnlyItsRegisters := by
  intro s
  obtain ⟨t, ht⟩ := exec_next .mpegDecode s
  have hframe := exec_commandFrame ht
  refine ⟨t, ht, hframe, ?_, fun a => by rw [hframe.wmem]⟩
  cases exec_end ht with
  | raised hi _ => exact absurd rfl hi
  | finished hi _ => exact absurd rfl hi
  | failed _ => exact .inl rfl
  | accepted _ => exact .inr rfl

/-! What a command does not read -/

/-- No argument test and no value reads STATUS or RESULT, and every end of a command writes both. -/
theorem exec_overwrites_outcome (i : Instr) (s : State) (st v : Word) :
    exec i { s with status := st, result := v } = exec i s := by
  cases i with
  | extract => rfl
  | syncsafe => rfl
  | findMasked => rfl
  | findBytes => rfl
  | mpegDecode => rfl

theorem command_overwrites_outcome (c : Word) (s : State) (st v : Word) :
    command c { s with status := st, result := v } = command c s := by
  cases hc : decode c with
  | ok i => rw [command_of_decode hc, command_of_decode hc, exec_overwrites_outcome]
  | error e => rw [command_of_illegal hc, command_of_illegal hc, illegal_eq_raise, illegal_eq_raise]; rfl

/-- Settles O38: the same next state whatever STATUS and RESULT held before. -/
theorem commandsOverwriteOutcome : Obligations.CommandsOverwriteOutcome := by
  intro c s st v
  obtain ⟨t, ht⟩ := command_next c s
  have hoverwrite : command c { s with status := st, result := v } = .next t :=
    (command_overwrites_outcome c s st v).trans ht
  exact ⟨t, (step_beforeCmd c s).trans ht, (step_beforeCmd c _).trans hoverwrite⟩

/-- MPEG_DECODE does not read FH, and both its ends write it (10_state R42). -/
theorem execMpegDecode_overwrites_fh (s : State) (old : Option FrameHeader) :
    execMpegDecode { s with fh := old } = execMpegDecode s := rfl

/-- Settles O57: the command completes, and the header stored before plays no part. -/
theorem mpegDecodeReplacesWholeHeader : Obligations.MpegDecodeReplacesWholeHeader := by
  intro s old
  obtain ⟨t, ht⟩ := exec_next .mpegDecode s
  exact ⟨t, ht, (execMpegDecode_overwrites_fh s old).trans ht⟩

theorem execFindBytes_of_failing {s : State} {c : Cause} (h : findBytesCheck s = some c) :
    execFindBytes s = .next (s.raise 4#4 .invalidArgument c) := by
  simp only [execFindBytes, h, Instr.opcode]

theorem execFindBytes_of_ready {s : State} (h : findBytesCheck s = none) :
    execFindBytes s = .next (s.endSearch 4#4
      (scan s.config.searchMode s.dataByte s.patByte onesMask s.dataLen.toNat s.patLen.toNat s.argA.toNat)) := by
  simp only [execFindBytes, h, Instr.opcode]

theorem endSearch_withMask (s : State) (o : BitVec 4) (r : SearchResult) (base len : Word) :
    ({ s with maskBase := base, maskLen := len } : State).endSearch o r
      = { s.endSearch o r with maskBase := base, maskLen := len } := by
  cases r <;> rfl

/-- Neither the argument tests nor the scan of FIND_BYTES read MASK_BASE or MASK_LEN: both states take the same branch
with the same cause or scan result (42_search R150). -/
theorem execFindBytes_withMask (s : State) (base len : Word) : ∃ t, execFindBytes s = .next t
    ∧ execFindBytes { s with maskBase := base, maskLen := len }
      = .next { t with maskBase := base, maskLen := len } := by
  cases hc : findBytesCheck s with
  | some c =>
    exact ⟨_, execFindBytes_of_failing hc,
      execFindBytes_of_failing (s := { s with maskBase := base, maskLen := len }) hc⟩
  | none =>
    have hmask := execFindBytes_of_ready (s := { s with maskBase := base, maskLen := len }) hc
    exact ⟨_, execFindBytes_of_ready hc, hmask.trans (congrArg _ (endSearch_withMask s _ _ base len))⟩

/-- Settles O24: the two next states differ in the mask registers alone, and the first has the frame of O33. -/
theorem findBytesIgnoresMaskRegisters : Obligations.FindBytesIgnoresMaskRegisters := by
  intro s base len
  obtain ⟨t, ht, hmask⟩ := execFindBytes_withMask s base len
  have hframe : OutcomeFrame s t := exec_outcomeFrame (i := .findBytes) (by decide) ht
  unfold OutcomeFrame at hframe
  rw [hframe] at hmask
  exact ⟨t.status, t.result, ht.trans (congrArg _ hframe), hmask⟩

/-! The frame header and the cursor -/

theorem readReg_of_seeking {s : State} (h : s.fh = none) : s.readReg .fhFields = 0#32
    ∧ s.readReg .fhBitrate = 0#32 ∧ s.readReg .fhSrate = 0#32 ∧ s.readReg .fhFsize = 0#32 := by
  simp [State.readReg, h, fhFieldsWord, fhBitrateWord, fhSrateWord, fhFsizeWord]

/-- PARSED, bit 0 of FH_FIELDS, is set in every stored header (10_state R33). -/
theorem fieldsWord_parsed (h : FrameHeader) : h.fieldsWord.getLsbD 0 = true := by
  rw [BitVec.getLsbD, fieldsWord_toNat, Nat.testBit_eq_decide_div_mod_eq, decide_eq_true_iff]
  omega

/-- Settles O30: a failing decode leaves Seeking and a KIND other than OK, an accepted one PARSED = 1 and OK; every
other word keeps the header. -/
theorem parsedExactlyAfterOkDecode : Obligations.ParsedExactlyAfterOkDecode := by
  intro s
  refine ⟨?_, fun c _ hc => ?_⟩
  · obtain ⟨t, ht⟩ := exec_next .mpegDecode s
    refine ⟨t, ((step_beforeCmd _ s).trans (command_of_decode (i := .mpegDecode) (by decide) s)).trans ht, ?_⟩
    cases exec_end ht with
    | raised hi _ => exact absurd rfl hi
    | finished hi _ => exact absurd rfl hi
    | @failed k c hst =>
      have hseeking := readReg_of_seeking (State.failDecode_fh s k c)
      have hkind := kind_ne_ok_of_mem_failureStatus hst
      rw [State.failDecode_status, statusWord_mod_eight, hseeking.1]
      exact ⟨⟨fun h => by simp at h, fun h => absurd h hkind⟩, fun _ => ⟨rfl, hseeking.2⟩⟩
    | accepted hdr =>
      rw [State.acceptDecode_status, statusWord_mod_eight]
      exact ⟨⟨fun _ => rfl, fun _ => fieldsWord_parsed hdr⟩, fun h => absurd rfl h⟩
  · obtain ⟨t, ht⟩ := command_next c s
    exact ⟨t, (step_beforeCmd c s).trans ht, (command_outcomeFrame hc ht).fh⟩

/-- Settles O39, access by access: the others leave FH. -/
theorem onlyDecodeAndResetChangeHeader : Obligations.OnlyDecodeAndResetChangeHeader := by
  intro a s t h hne
  rw [step_before] at h
  rcases hostAccess_next h with ⟨c, rfl, hc⟩ | ⟨r, v, -, -, rfl⟩ | ⟨_, _, -, -, rfl⟩ | ⟨_, -, rfl⟩
    | ⟨_, _, -, -, rfl⟩ | ⟨rfl, -⟩
  · refine .inl ?_
    by_contra hword
    exact hne (command_outcomeFrame (fun h5 => hword (by rw [h5])) hc).fh
  · exact absurd (s.writeReg_fh r v) hne
  · exact absurd rfl hne
  · exact absurd rfl hne
  · exact absurd rfl hne
  · exact .inr rfl

theorem writeReg_srcPos_of_ne {r : Reg} (hr : r ≠ .srcPos) (s : State) (v : Word) :
    (s.writeReg r v).srcPos = s.srcPos := by
  cases r with
  | srcPos => exact absurd rfl hr
  | _ => rfl

/-- Settles O40, access by access: the others leave SRC_POS. -/
theorem onlySeekDecodeAndResetMoveCursor : Obligations.OnlySeekDecodeAndResetMoveCursor := by
  intro a s t h hne
  rw [step_before] at h
  rcases hostAccess_next h with ⟨c, rfl, hc⟩ | ⟨r, v, rfl, -, rfl⟩ | ⟨_, _, -, -, rfl⟩ | ⟨_, -, rfl⟩
    | ⟨_, _, -, -, rfl⟩ | ⟨rfl, -⟩
  · refine .inr (.inl ?_)
    by_contra hword
    exact hne (command_outcomeFrame (fun h5 => hword (by rw [h5])) hc).srcPos
  · by_cases hr : r = .srcPos
    · subst hr
      exact .inl ⟨v, rfl⟩
    · exact absurd (writeReg_srcPos_of_ne hr s v) hne
  · exact absurd rfl hne
  · exact absurd rfl hne
  · exact absurd rfl hne
  · exact .inr (.inr rfl)

/-- No host access but a host write of WMEM writes WMEM (20_memory R53, 10_state R43). -/
theorem hostAccess_wmem {a : HostAccess} {s t : State} (h : hostAccess a s = .next t) :
    (∃ addr bytes, a = .wmemWrite addr bytes ∧ t.wmem = s.wmem.writeBytes addr bytes)
    ∨ ((∀ addr bytes, a ≠ .wmemWrite addr bytes) ∧ t.wmem = s.wmem) := by
  rcases hostAccess_next h with ⟨c, rfl, hc⟩ | ⟨r, v, rfl, -, rfl⟩ | ⟨_, _, rfl, -, rfl⟩ | ⟨_, rfl, rfl⟩
    | ⟨addr, bytes, rfl, -, rfl⟩ | ⟨rfl, rfl⟩
  · exact .inr ⟨by simp, (command_commandFrame hc).wmem⟩
  · exact .inr ⟨by simp, s.writeReg_wmem r v⟩
  · exact .inr ⟨by simp, rfl⟩
  · exact .inr ⟨by simp, rfl⟩
  · exact .inl ⟨addr, bytes, rfl, rfl⟩
  · exact .inr ⟨by simp, rfl⟩

/-- Settles O41: a write of bytes leaves every other address, and no other access writes WMEM. -/
theorem onlyHostWritesChangeWmem : Obligations.OnlyHostWritesChangeWmem := by
  intro a s t h
  rw [step_before] at h
  rcases hostAccess_wmem h with ⟨addr, bytes, rfl, hw⟩ | ⟨ha, hw⟩
  · refine ⟨?_, fun hno => absurd rfl (hno addr bytes)⟩
    rintro addr' bytes' ⟨⟩ x hx
    rw [hw]
    exact Memory.read_writeBytes_ne s.wmem hx
  · exact ⟨fun addr bytes h' => absurd h' (ha addr bytes), fun _ => hw⟩

/-! The register view of the frame header -/

/-- FH_FIELDS as a number, with its fields' bounds, is below 2^15: bits 31..15 are 0 (10_state R33). -/
theorem fieldsWord_reserved (h : FrameHeader) : h.fieldsWord.extractLsb' 15 17 = 0#17 := by
  apply BitVec.eq_of_toNat_eq
  rw [BitVec.extractLsb'_toNat, fieldsWord_toNat, Nat.shiftRight_eq_div_pow, BitVec.toNat_ofNat]
  have := h.isProtected.toNat_lt
  omega

/-- The fields of FH_FIELDS at their bits (10_state R33). -/
theorem fieldsWord_fields (h : FrameHeader) :
    h.fieldsWord.extractLsb' 1 2 = h.version.code ∧ h.fieldsWord.extractLsb' 3 2 = h.layer.code
    ∧ h.fieldsWord.getLsbD 5 = h.isProtected ∧ h.fieldsWord.extractLsb' 6 4 = h.bitrateIndex
    ∧ h.fieldsWord.extractLsb' 10 2 = h.srateIndex ∧ h.fieldsWord.extractLsb' 12 1 = h.padding
    ∧ h.fieldsWord.extractLsb' 13 2 = h.channelMode.code := by
  have hprot := h.isProtected.toNat_lt
  simp only [← BitVec.toNat_inj, BitVec.extractLsb'_toNat, Nat.shiftRight_eq_div_pow, BitVec.getLsbD,
    fieldsWord_toNat, Nat.testBit_eq_decide_div_mod_eq]
  refine ⟨by omega, by omega, ?_, by omega, by omega, by omega, by omega⟩
  cases h.isProtected <;> simp <;> omega

theorem version_code_toNat (v : Version) :
    v.code.toNat = match v with | .v1 => 1 | .v2 => 2 | .v3 => 3 := by cases v <;> rfl

theorem layer_code_toNat (l : Layer) :
    l.code.toNat = match l with | .l1 => 1 | .l2 => 2 | .l3 => 3 := by cases l <;> rfl

theorem channelMode_code_toNat (m : ChannelMode) :
    m.code.toNat = match m with | .stereo => 0 | .jointStereo => 1 | .dualChannel => 2 | .singleChannel => 3 := by
  cases m <;> rfl

/-- A derived register reads ERR, or VALUE below a clear bit 31 (10_state R34 to R36). -/
theorem derived_word (d : Derived) : (d = .err → d.word = 0x80000000#32)
    ∧ ∀ v, d = .value v → d.word.getLsbD 31 = false ∧ d.word.extractLsb' 0 31 = v := by
  refine ⟨fun h => h ▸ rfl, ?_⟩
  rintro v rfl
  have hnum : (Derived.value v).word.toNat = v.toNat := by
    simp only [Derived.word, append_toNat, BitVec.toNat_ofNat]
    omega
  constructor
  · rw [BitVec.getLsbD, hnum]
    exact Nat.testBit_lt_two_pow v.isLt
  · apply BitVec.eq_of_toNat_eq
    rw [BitVec.extractLsb'_toNat, hnum, Nat.shiftRight_zero, Nat.mod_eq_of_lt v.isLt]

/-- With a header stored, the four FH registers are its views (10_state R33 to R36). -/
theorem readReg_of_parsed {s : State} {h : FrameHeader} (hs : s.fh = some h) :
    s.readReg .fhFields = h.fieldsWord ∧ s.readReg .fhBitrate = h.bitrate.word
    ∧ s.readReg .fhSrate = h.samplingRate.word ∧ s.readReg .fhFsize = h.frameSize.word := by
  simp [State.readReg, hs, fhFieldsWord, fhBitrateWord, fhSrateWord, fhFsizeWord]

/-- Settles O54: the four zero words of Seeking, then each field of FH_FIELDS and the three derived registers. -/
theorem headerRegisterViews : Obligations.HeaderRegisterViews := by
  refine ⟨fun s hs => readReg_of_seeking hs, fun s h hs => ?_⟩
  obtain ⟨hfields, hbitrate, hsrate, hfsize⟩ := readReg_of_parsed hs
  obtain ⟨hver, hlayer, hprot, hbi, hsi, hpad, hcm⟩ := fieldsWord_fields h
  rw [hfields, hver, hlayer, hcm]
  refine ⟨fieldsWord_parsed h, version_code_toNat _, layer_code_toNat _, hprot, hbi, hsi, hpad,
    channelMode_code_toNat _, fieldsWord_reserved h, ?_⟩
  simp only [List.mem_cons, Prod.mk.injEq, List.not_mem_nil, or_false]
  rintro r d (⟨rfl, rfl⟩ | ⟨rfl, rfl⟩ | ⟨rfl, rfl⟩)
  · rw [hbitrate]; exact derived_word _
  · rw [hsrate]; exact derived_word _
  · rw [hfsize]; exact derived_word _

/-! Register accesses -/

/-- The registers of 10_state R20, in the order of their offsets. -/
def allRegs : List Reg :=
  [.cmd, .status, .result, .argA, .argB, .dataBase, .dataLen, .patBase, .patLen, .maskBase, .maskLen,
    .srcBase, .srcLen, .srcPos, .fhFields, .fhBitrate, .fhSrate, .fhFsize]

/-- Settles O53: the listed pairs are the offset and the value of each register. -/
theorem registerMapReads : Obligations.RegisterMapReads := by
  intro s
  have hread : ∀ p ∈ allRegs.map (fun r => (r.offset, s.readReg r)),
      step (before (.regRead 32 p.1) s) = .next { s with readData := some p.2 } := by
    intro p hp
    obtain ⟨r, -, rfl⟩ := List.mem_map.mp hp
    exact (step_before _ s).trans (hostAccess_regRead r s)
  exact hread

theorem writeReg_of_readOnly {r : Reg} (hr : r.access = .readOnly) (s : State) (v : Word) : s.writeReg r v = s := by
  cases r with
  | status | result | fhFields | fhBitrate | fhSrate | fhFsize => rfl
  | _ => cases hr

/-- The read-only registers (10_state R20). -/
def readOnlyRegs : List Reg := [.status, .result, .fhFields, .fhBitrate, .fhSrate, .fhFsize]

theorem readOnlyRegs_access : ∀ r ∈ readOnlyRegs, r.access = .readOnly := by decide

/-- A write to a read-only register changes nothing (10_state R38). -/
theorem hostAccess_write_readOnly {r : Reg} (hr : r.access = .readOnly) (v : Word) (s : State) :
    hostAccess (.regWrite 32 r.offset v) s = .next s := by
  have hcmd : r ≠ .cmd := by rintro rfl; cases hr
  rw [hostAccess_regWrite hcmd, writeReg_of_readOnly hr]

/-- An offset that holds no register is reserved (10_state R20, R38). -/
theorem regAt_of_not_mem {off : Nat} (h : off ∉ registerOffsets) : regAt off = none := by
  have hmem : ∀ r : Reg, r.offset ∈ registerOffsets := by intro r; cases r <;> decide
  cases hr : regAt off with
  | none => rfl
  | some r => exact absurd (offset_of_regAt hr ▸ hmem r) h

/-- A defined access to a reserved offset: the write changes nothing, the read gets 0 (10_state R38). -/
theorem hostAccess_reserved {off : Nat} (hdef : accessRefusal 32 off = none) (hoff : regAt off = none) (v : Word)
    (s : State) : hostAccess (.regWrite 32 off v) s = .next s
      ∧ hostAccess (.regRead 32 off) s = .next { s with readData := some 0#32 } := by
  simp only [hostAccess, hostRegWrite, hostRegRead, regWriteAt, State.readOffset, hdef, hoff, and_self]

/-- The reserved bits of FH_FIELDS read 0, header or none (10_state R33, R38). -/
theorem readReg_fhFields_reserved (s : State) : (s.readReg .fhFields).extractLsb' 15 17 = 0#17 := by
  cases hs : s.fh with
  | none => rw [(readReg_of_seeking hs).1]; decide
  | some h => rw [(readReg_of_parsed hs).1]; exact fieldsWord_reserved h

/-- Settles O52: accesses to reserved offsets, writes to read-only registers, and the two words' reserved bits. -/
theorem reservedAndReadOnlyWritesIgnored : Obligations.ReservedAndReadOnlyWritesIgnored := by
  intro s v
  refine ⟨fun off hlt halign hoff => ?_, ?_, readReg_fhFields_reserved s, legalStatus_reserved⟩
  · have hdef : accessRefusal 32 off = none := (accessRefusal_eq_none 32 off).mpr ⟨rfl, halign, hlt⟩
    obtain ⟨hwrite, hread⟩ := hostAccess_reserved hdef (regAt_of_not_mem hoff) v s
    exact ⟨(step_before _ s).trans hwrite, _, (step_before _ s).trans hread, rfl⟩
  · have hignored : ∀ off ∈ readOnlyRegs.map Reg.offset, step (before (.regWrite 32 off v) s) = .next s := by
      intro off hoff
      obtain ⟨r, hr, rfl⟩ := List.mem_map.mp hoff
      exact (step_before _ s).trans (hostAccess_write_readOnly (readOnlyRegs_access r hr) v s)
    exact hignored

/-- What every register reads after a write of any: the table of register pairs (10_state R22, R38). -/
theorem readReg_writeReg (s : State) (r r' : Reg) (v : Word) :
    (s.writeReg r v).readReg r' = if r' = r ∧ r.access = .readWrite then v else s.readReg r' := by
  cases r <;> cases r' <;> rfl

theorem readWriteRegs_access : ∀ r ∈ readWriteRegs, r.access = .readWrite := by decide

/-- Settles O51: the write's effect on every register, and a read of the written one. -/
theorem registerWriteReadsBack : Obligations.RegisterWriteReadsBack := by
  intro s r v hr
  have haccess := readWriteRegs_access r hr
  have hcmd : r ≠ .cmd := by rintro rfl; cases haccess
  have hread : ∀ r', (s.writeReg r v).readReg r' = if r' = r then v else s.readReg r' := by
    simp [readReg_writeReg, haccess]
  have hback : step (before (.regRead 32 r.offset) (s.writeReg r v))
      = .next { s.writeReg r v with readData := some v } := by
    rw [step_before, hostAccess_regRead, hread, if_pos rfl]
  exact ⟨s.writeReg r v, (step_before _ s).trans (hostAccess_regWrite hcmd v s), hread,
    s.writeReg_fh r v, s.writeReg_wmem r v, _, hback, rfl⟩

/-! Reset -/

/-- After the platform reset every register reads 0 (10_state R43, 70 R250). -/
theorem platformReset_readReg (s : State) (r : Reg) : s.platformReset.readReg r = 0#32 := by
  cases r <;> rfl

/-- Settles O50: the step is the reset itself, which writes every register and neither WMEM nor the configuration. -/
theorem platformResetClearsRegisters : Obligations.PlatformResetClearsRegisters := fun s =>
  ⟨s.platformReset, step_before .platformReset s, platformReset_readReg s, rfl, rfl, rfl⟩

/-- Settles O49: the platform reset of the reset state is that state itself. -/
theorem resetStateRegistersAreZero : Obligations.ResetStateRegistersAreZero :=
  ⟨platformReset_readReg State.reset, rfl⟩

end Sys2Proof.Proofs
end

section
/-! SUPPORT. Proofs of the statements of 20_memory: which bytes of WMEM a command reads, that it writes none, the
accesses that stop, and WMEM after a host write. -/

namespace Sys2Proof.Proofs

open Sys2Proof.Machine Sys2Proof.Claim

/-! WMEM in legal form -/

/-- A host write of bytes that exist writes them (20_memory R51). -/
theorem hostAccess_wmemWrite {addr : Nat} {bytes : List Byte} {s : State}
    (h : addr + bytes.length ≤ s.config.wmemSize) :
    hostAccess (.wmemWrite addr bytes) s = .next { s with wmem := s.wmem.writeBytes addr bytes } :=
  if_pos h

/-- A host write of bytes WMEM does not have faults (log entry 7). -/
theorem hostAccess_wmemWrite_fault {addr : Nat} {bytes : List Byte} {s : State}
    (h : ¬ addr + bytes.length ≤ s.config.wmemSize) :
    hostAccess (.wmemWrite addr bytes) s = .fault .wmemAddress :=
  if_neg h

/-- A host access that goes on writes bytes within WMEM's addresses, or leaves WMEM. -/
theorem hostAccess_memoryLegal {a : HostAccess} {s t : State} (hs : s.memoryLegal)
    (h : hostAccess a s = .next t) : t.memoryLegal := by
  obtain ⟨hwf, hwithin⟩ := hs
  have hconfig : t.config = s.config := (hostAccess_keeps_program_config h).2
  rcases hostAccess_wmem h with ⟨addr, bytes, rfl, hw⟩ | ⟨-, hw⟩ <;>
    rw [State.memoryLegal, hconfig, hw]
  · by_cases hfit : addr + bytes.length ≤ s.config.wmemSize
    · exact ⟨Memory.wf_writeBytes hwf addr bytes, Memory.within_writeBytes hwithin hfit⟩
    · cases (hostAccess_wmemWrite_fault hfit).symm.trans h
  · exact ⟨hwf, hwithin⟩

/-- Settles O46: an idle step holds the state, and every host access keeps WMEM legal. -/
theorem stepKeepsMemoryLegal : Obligations.StepKeepsMemoryLegal := by
  intro s t hs h
  rcases step_next h with ⟨-, rfl⟩ | ⟨a, rest, -, h'⟩
  · exact hs
  · exact hostAccess_memoryLegal (s := { s with hostProgram := rest }) hs h'

/-- Settles O55: the write's bytes by induction over them (`Memory.read_writeBytes`); no register is a view of
WMEM. -/
theorem wmemWriteReadsBack : Obligations.WmemWriteReadsBack := by
  intro s addr bytes hs hfit
  refine ⟨_, (step_before _ s).trans (hostAccess_wmemWrite hfit), Memory.read_writeBytes hs.1 addr bytes, ?_⟩
  intro r
  cases r <;> rfl

/-- Settles O36: a command word goes on, and its frame holds WMEM. -/
theorem commandsNeverWriteWmem : Obligations.CommandsNeverWriteWmem := by
  intro c s
  obtain ⟨t, ht⟩ := command_next c s
  have hw : t.wmem = s.wmem := (command_commandFrame ht).wmem
  exact ⟨t, (step_beforeCmd c s).trans ht, hw, fun a => by rw [hw]⟩

/-! The accesses that stop -/

/-- Both register accesses are refused for the reason `accessRefusal` gives (20_memory R50). -/
theorem hostAccess_refused {width offset : Nat} {r : Refusal} (h : accessRefusal width offset = some r) (v : Word)
    (s : State) : hostAccess (.regWrite width offset v) s = .refused r
      ∧ hostAccess (.regRead width offset) s = .refused r := by
  simp only [hostAccess, hostRegWrite, hostRegRead, h, and_self]

/-- An access outside 20_memory R50 has a reason to be refused. -/
theorem exists_accessRefusal {width offset : Nat} (h : ¬ (width = 32 ∧ offset % 4 = 0 ∧ offset < 0x100)) :
    ∃ r, accessRefusal width offset = some r :=
  Option.ne_none_iff_exists'.mp (mt (accessRefusal_eq_none width offset).mp h)

/-- Every defined access answers a next state (60 R230). -/
theorem hostAccess_next_of_defined {a : HostAccess} {s : State} (h : a.defined s.config) :
    ∃ t, hostAccess a s = .next t := by
  cases a with
  | regWrite width offset v =>
    have hdef : accessRefusal width offset = none := (accessRefusal_eq_none width offset).mpr h
    rcases hostRegWrite_cases width offset v s with ⟨r, hr, -⟩ | ⟨-, ⟨-, h'⟩ | ⟨r, -, -, h'⟩ | ⟨-, h'⟩⟩
    · cases hdef.symm.trans hr
    · obtain ⟨t, ht⟩ := command_next v s
      exact ⟨t, h'.trans ht⟩
    · exact ⟨_, h'⟩
    · exact ⟨_, h'⟩
  | regRead width offset =>
    have hdef : accessRefusal width offset = none := (accessRefusal_eq_none width offset).mpr h
    exact ⟨{ s with readData := some (s.readOffset offset) }, by simp only [hostAccess, hostRegRead, hdef]⟩
  | wmemWrite addr bytes => exact ⟨_, hostAccess_wmemWrite h⟩
  | platformReset => exact ⟨_, rfl⟩

/-- Settles O44: a defined access goes on; of the undefined ones, a write of WMEM faults and a register access is
refused. -/
theorem stepStopsExactlyOnUndefinedAccess : Obligations.StepStopsExactlyOnUndefinedAccess := by
  intro a s
  rw [step_before]
  refine ⟨hostAccess_next_of_defined, fun hundef => ⟨?_, fun hreg => ?_⟩⟩
  · rintro addr bytes rfl
    exact hostAccess_wmemWrite_fault hundef
  · cases a with
    | regWrite width offset v =>
      obtain ⟨r, hr⟩ := exists_accessRefusal hundef
      exact ⟨r, (hostAccess_refused hr v s).1⟩
    | regRead width offset =>
      obtain ⟨r, hr⟩ := exists_accessRefusal hundef
      exact ⟨r, (hostAccess_refused hr 0#32 s).2⟩
    | wmemWrite addr bytes => exact absurd rfl (hreg addr bytes)
    | platformReset => exact absurd trivial hundef

/-! When the argument tests pass, and what each command then does -/

/-- No argument test of EXTRACT fails exactly under its ready condition (40_bitfield R102). -/
theorem extractCheck_eq_none (s : State) : extractCheck s = none ↔ extractReady s := by
  unfold extractCheck extractReady State.inRange
  split_ifs <;> simp <;> omega

/-- No argument test of SYNCSAFE fails exactly under its ready condition (41_syncsafe R122). -/
theorem syncsafeCheck_eq_none (s : State) : syncsafeCheck s = none ↔ syncsafeReady s := by
  unfold syncsafeCheck syncsafeReady State.inRange
  split_ifs <;> simp <;> omega

/-- No argument test of FIND_MASKED fails exactly under its ready condition (42_search R141). -/
theorem findMaskedCheck_eq_none (s : State) : findMaskedCheck s = none ↔ searchReady .findMasked s := by
  unfold findMaskedCheck searchReady State.inRange
  by_cases hlen : s.maskLen = s.patLen
  · simp only [hlen, ne_eq, not_true_eq_false, if_false, true_and]
    split_ifs <;> simp <;> omega
  · simp only [hlen, ne_eq, not_false_eq_true, if_true, false_and, and_false, iff_false]
    split_ifs <;> simp

/-- No argument test of FIND_BYTES fails exactly under its ready condition (42_search R151). -/
theorem findBytesCheck_eq_none (s : State) : findBytesCheck s = none ↔ searchReady .findBytes s := by
  unfold findBytesCheck searchReady State.inRange
  split_ifs <;> simp <;> omega

theorem execExtract_of_failing {s : State} {c : Cause} (h : extractCheck s = some c) :
    execExtract s = .next (s.raise 1#4 .invalidArgument c) := by
  simp only [execExtract, h, Instr.opcode]

theorem execExtract_of_ready {s : State} (h : extractCheck s = none) :
    execExtract s = .next (s.finish 1#4 (extractField s.dataByte s.argA.toNat s.argB.toNat)) := by
  simp only [execExtract, h, Instr.opcode]

theorem execSyncsafe_of_failing {s : State} {c : Cause} (h : syncsafeCheck s = some c) :
    execSyncsafe s = .next (s.raise 2#4 .invalidArgument c) := by
  simp only [execSyncsafe, h, Instr.opcode]

theorem execSyncsafe_of_ready {s : State} (h : syncsafeCheck s = none) :
    execSyncsafe s = .next (s.finish 2#4 (syncsafeValue s.dataByte s.argA.toNat)) := by
  simp only [execSyncsafe, h, Instr.opcode]

theorem execFindMasked_of_failing {s : State} {c : Cause} (h : findMaskedCheck s = some c) :
    execFindMasked s = .next (s.raise 3#4 .invalidArgument c) := by
  simp only [execFindMasked, h, Instr.opcode]

theorem execFindMasked_of_ready {s : State} (h : findMaskedCheck s = none) :
    execFindMasked s = .next (s.endSearch 3#4
      (scan s.config.searchMode s.dataByte s.patByte s.maskByte s.dataLen.toNat s.patLen.toNat s.argA.toNat)) := by
  simp only [execFindMasked, h, Instr.opcode]

theorem execMpegDecode_of_outOfRange {s : State} (h : ¬ s.inRange s.srcBase s.srcLen) :
    execMpegDecode s = .next (s.failDecode .invalidArgument .windowRange) :=
  if_pos h

theorem execMpegDecode_of_short {s : State} (hr : s.inRange s.srcBase s.srcLen) (ha : s.avail < 4) :
    execMpegDecode s = .next (s.failDecode .truncated .shortRead) := by
  rw [execMpegDecode, if_neg (not_not.mpr hr), if_pos ha]

theorem execMpegDecode_of_error {s : State} {c : Cause} (hr : s.inRange s.srcBase s.srcLen) (ha : 4 ≤ s.avail)
    (hd : decodeHeader s.config s.reversedHeader = .error c) :
    execMpegDecode s = .next (s.failDecode .formatMismatch c) := by
  rw [execMpegDecode, if_neg (not_not.mpr hr), if_neg (by omega), hd]

theorem execMpegDecode_of_ok {s : State} {h : FrameHeader} (hr : s.inRange s.srcBase s.srcLen) (ha : 4 ≤ s.avail)
    (hd : decodeHeader s.config s.reversedHeader = .ok h) :
    execMpegDecode s = .next (s.acceptDecode h) := by
  rw [execMpegDecode, if_neg (not_not.mpr hr), if_neg (by omega), hd]

/-- Four bytes at the cursor: they lie in the stream window (20_memory R56). -/
theorem four_le_avail (s : State) : 4 ≤ s.avail ↔ s.srcPos.toNat + 4 ≤ s.srcLen.toNat := by
  unfold State.avail
  split <;> omega

/-! What a command reads of WMEM. In every lemma `m` is another WMEM, put in place of the state's own. -/

/-- `o'` is the outcome `o` but for the memory: both go on, and the second state has `m` for its WMEM. -/
def SameButWmem (m : Memory) (o o' : Host.Outcome State Fault Refusal) : Prop :=
  ∃ t, o = .next t ∧ o' = .next { t with wmem := m }

/-- Two searches with one scan result end alike. -/
theorem endSearch_withWmem (s : State) (m : Memory) (o : BitVec 4) {r r' : SearchResult} (h : r' = r) :
    ({ s with wmem := m } : State).endSearch o r' = { s.endSearch o r with wmem := m } := by
  subst h
  cases r' <;> rfl

/-- SYNCSAFE's value depends only on its four bytes (41_syncsafe R121). -/
theorem syncsafeValue_congr {buf buf' : Nat → Byte} {si : Nat} (h : ∀ i < 4, buf (si + i) = buf' (si + i)) :
    syncsafeValue buf si = syncsafeValue buf' si := by
  have h0 : buf si = buf' si := h 0 (by omega)
  rw [syncsafeValue_eq, syncsafeValue_eq, h0, h 1 (by omega), h 2 (by omega), h 3 (by omega)]

/-- EXTRACT reads the bytes of its field, and those only when its tests pass (40_bitfield R106). -/
theorem execExtract_withWmem {s : State} {m : Memory}
    (h : extractReady s → ∀ b, s.argA.toNat / 8 ≤ b → b ≤ (s.argA.toNat + s.argB.toNat - 1) / 8 →
      m.read (s.dataBase.toNat + b) = s.dataByte b) :
    SameButWmem m (execExtract s) (execExtract { s with wmem := m }) := by
  cases hc : extractCheck s with
  | some c => exact ⟨_, execExtract_of_failing hc, execExtract_of_failing (s := { s with wmem := m }) hc⟩
  | none =>
    obtain ⟨-, -, -, hwidth, -⟩ := (extractCheck_eq_none s).mp hc
    have hvalue : extractField ({ s with wmem := m } : State).dataByte s.argA.toNat s.argB.toNat
        = extractField s.dataByte s.argA.toNat s.argB.toNat :=
      extractField_congr hwidth (h ((extractCheck_eq_none s).mp hc))
    refine ⟨_, execExtract_of_ready hc, (execExtract_of_ready (s := { s with wmem := m }) hc).trans ?_⟩
    rw [hvalue]
    rfl

/-- SYNCSAFE reads the data window (41_syncsafe R121). -/
theorem execSyncsafe_withWmem {s : State} {m : Memory}
    (hdata : ∀ k < s.dataLen.toNat, m.read (s.dataBase.toNat + k) = s.dataByte k) :
    SameButWmem m (execSyncsafe s) (execSyncsafe { s with wmem := m }) := by
  cases hc : syncsafeCheck s with
  | some c => exact ⟨_, execSyncsafe_of_failing hc, execSyncsafe_of_failing (s := { s with wmem := m }) hc⟩
  | none =>
    obtain ⟨-, -, hindex⟩ := (syncsafeCheck_eq_none s).mp hc
    have hvalue : syncsafeValue ({ s with wmem := m } : State).dataByte s.argA.toNat
        = syncsafeValue s.dataByte s.argA.toNat :=
      syncsafeValue_congr fun i hi => hdata _ (by omega)
    refine ⟨_, execSyncsafe_of_ready hc, (execSyncsafe_of_ready (s := { s with wmem := m }) hc).trans ?_⟩
    rw [hvalue]
    rfl

/-- FIND_MASKED reads the data, pattern and mask windows, the last two of one length (42_search R141, R146). -/
theorem execFindMasked_withWmem {s : State} {m : Memory}
    (hdata : ∀ k < s.dataLen.toNat, m.read (s.dataBase.toNat + k) = s.dataByte k)
    (hpat : ∀ k < s.patLen.toNat, m.read (s.patBase.toNat + k) = s.patByte k)
    (hmask : ∀ k < s.maskLen.toNat, m.read (s.maskBase.toNat + k) = s.maskByte k) :
    SameButWmem m (execFindMasked s) (execFindMasked { s with wmem := m }) := by
  cases hc : findMaskedCheck s with
  | some c => exact ⟨_, execFindMasked_of_failing hc, execFindMasked_of_failing (s := { s with wmem := m }) hc⟩
  | none =>
    obtain ⟨-, -, hlen, -, -, -, hstart⟩ := (findMaskedCheck_eq_none s).mp hc
    rw [hlen] at hmask
    refine ⟨_, execFindMasked_of_ready hc, (execFindMasked_of_ready (s := { s with wmem := m }) hc).trans ?_⟩
    exact congrArg Host.Outcome.next
      (endSearch_withWmem s m _ (scan_congr s.config.searchMode hstart.le hdata hpat hmask))

/-- FIND_BYTES reads the data and pattern windows (42_search R150). -/
theorem execFindBytes_withWmem {s : State} {m : Memory}
    (hdata : ∀ k < s.dataLen.toNat, m.read (s.dataBase.toNat + k) = s.dataByte k)
    (hpat : ∀ k < s.patLen.toNat, m.read (s.patBase.toNat + k) = s.patByte k) :
    SameButWmem m (execFindBytes s) (execFindBytes { s with wmem := m }) := by
  cases hc : findBytesCheck s with
  | some c => exact ⟨_, execFindBytes_of_failing hc, execFindBytes_of_failing (s := { s with wmem := m }) hc⟩
  | none =>
    obtain ⟨-, -, -, -, hstart⟩ := (findBytesCheck_eq_none s).mp hc
    refine ⟨_, execFindBytes_of_ready hc, (execFindBytes_of_ready (s := { s with wmem := m }) hc).trans ?_⟩
    exact congrArg Host.Outcome.next
      (endSearch_withWmem s m _ (scan_congr s.config.searchMode hstart.le hdata hpat fun _ _ => rfl))

/-- MPEG_DECODE reads the four bytes at the cursor, which lie in the stream window when it reads them
(43_mpeg R171, R172). -/
theorem execMpegDecode_withWmem {s : State} {m : Memory}
    (hsrc : ∀ p < s.srcLen.toNat, m.read (s.srcBase.toNat + p) = s.streamByte p) :
    SameButWmem m (execMpegDecode s) (execMpegDecode { s with wmem := m }) := by
  have hheader : 4 ≤ s.avail → ({ s with wmem := m } : State).reversedHeader = s.reversedHeader := by
    intro ha
    have hin := (four_le_avail s).mp ha
    exact funext fun k => hsrc (s.srcPos.toNat + (3 - k)) (by omega)
  rcases execMpegDecode_cases s with ⟨hr, h⟩ | ⟨hr, ha, h⟩ | ⟨hr, ha, ⟨c, hd, h⟩ | ⟨hdr, hd, h⟩⟩
  · exact ⟨_, h, execMpegDecode_of_outOfRange (s := { s with wmem := m }) hr⟩
  · exact ⟨_, h, execMpegDecode_of_short (s := { s with wmem := m }) hr ha⟩
  · rw [← hheader ha] at hd
    exact ⟨_, h, execMpegDecode_of_error (s := { s with wmem := m }) hr ha hd⟩
  · rw [← hheader ha] at hd
    exact ⟨_, h, execMpegDecode_of_ok (s := { s with wmem := m }) hr ha hd⟩

/-- Settles O9: the two next states differ in WMEM alone, and the first has the frame of O33. -/
theorem extractReadsOnlyFieldBytes : Obligations.ExtractReadsOnlyFieldBytes := by
  intro s m h
  obtain ⟨t, ht, hm⟩ := execExtract_withWmem fun _ => h
  have hframe : OutcomeFrame s t := exec_outcomeFrame (i := .extract) (by decide) ht
  unfold OutcomeFrame at hframe
  rw [hframe] at hm
  exact ⟨t.status, t.result, ht.trans (congrArg _ hframe), hm⟩

/-- The bytes of EXTRACT's field lie in the data window when its tests pass (40_bitfield R102, R103). -/
theorem field_byte_lt_dataLen {s : State} (h : extractReady s) {b : Nat}
    (hb : b ≤ (s.argA.toNat + s.argB.toNat - 1) / 8) : b < s.dataLen.toNat := by
  obtain ⟨-, -, hmin, -, hbits⟩ := h
  omega

/-- Settles O37, command by command: `named` lists the bytes of its windows. -/
theorem commandsDependOnlyOnNamedWindows : Obligations.CommandsDependOnlyOnNamedWindows := by
  intro i s m h
  cases i with
  | extract =>
    simp only [named] at h
    exact execExtract_withWmem fun hready b _ hb =>
      h _ ⟨by omega, Nat.add_lt_add_left (field_byte_lt_dataLen hready hb) _⟩
  | syncsafe =>
    simp only [named] at h
    exact execSyncsafe_withWmem fun k hk => h _ ⟨by omega, by omega⟩
  | findMasked =>
    simp only [named] at h
    exact execFindMasked_withWmem (fun k hk => h _ (.inl ⟨by omega, by omega⟩))
      (fun k hk => h _ (.inr (.inl ⟨by omega, by omega⟩))) (fun k hk => h _ (.inr (.inr ⟨by omega, by omega⟩)))
  | findBytes =>
    simp only [named] at h
    exact execFindBytes_withWmem (fun k hk => h _ (.inl ⟨by omega, by omega⟩))
      (fun k hk => h _ (.inr ⟨by omega, by omega⟩))
  | mpegDecode =>
    simp only [named] at h
    exact execMpegDecode_withWmem fun p hp => h _ ⟨by omega, by omega⟩

end Sys2Proof.Proofs
end

section
/-! SUPPORT. Proofs of the statements of 30_encoding: command words and their decoding, illegal words, and host
programs made of register writes and a command. -/

namespace Sys2Proof.Proofs

open Sys2Proof.Machine Sys2Proof.Claim

/-! Decoding and encoding -/

/-- A command's word decodes to it (30_encoding R72). -/
theorem decode_encode (i : Instr) : decode (encode i) = .ok i := by cases i <;> rfl

/-- Settles O2: `decode` is the left inverse of `encode`, and no other word decodes to a command. -/
theorem decodeInvertsEncode : Obligations.DecodeInvertsEncode := by
  intro c i
  refine ⟨eq_encode_of_decode, ?_⟩
  rintro rfl
  exact decode_encode i

/-- Settles O1: the five words are the values of `encode`, so they decode by `decode_encode`. -/
theorem tableWordsDecodeAndEncode : Obligations.TableWordsDecodeAndEncode :=
  ⟨⟨decode_encode .extract, decode_encode .syncsafe, decode_encode .findMasked, decode_encode .findBytes,
    decode_encode .mpegDecode⟩, rfl, rfl, rfl, rfl, rfl⟩

/-! The fields of a command word as numbers -/

theorem opcField_toNat (c : Word) : (opcField c).toNat = c.toNat % 16 := by
  simp [opcField]

theorem rsvField_toNat (c : Word) : (rsvField c).toNat = c.toNat / 16 := by
  simp only [rsvField, BitVec.extractLsb'_toNat, Nat.shiftRight_eq_div_pow]
  omega

theorem encode_toNat (i : Instr) : (encode i).toNat = i.opcode.toNat := by cases i <;> rfl

theorem rsvField_eq_zero (c : Word) : rsvField c = 0#28 ↔ c.toNat / 16 = 0 := by
  rw [← rsvField_toNat, ← BitVec.toNat_inj, BitVec.toNat_ofNat, Nat.zero_mod]

/-- A set reserved bit is what makes a word illegal for RESERVED_CMD_BITS (30_encoding R71, R74). -/
theorem decode_eq_reservedCmdBits (c : Word) : decode c = .error .reservedCmdBits ↔ c.toNat / 16 ≠ 0 := by
  rw [Ne, ← rsvField_eq_zero]
  unfold decode
  split_ifs with hrsv <;> simp [hrsv]

/-- With clear reserved bits, a command's opcode decodes to the command (30_encoding R71). -/
theorem decode_of_opcode (i : Instr) {c : Word} (hrsv : c.toNat / 16 = 0) (hopc : c.toNat % 16 = i.opcode.toNat) :
    decode c = .ok i := by
  have hc : c = encode i := by
    apply BitVec.eq_of_toNat_eq
    rw [encode_toNat, ← hopc]
    omega
  rw [hc, decode_encode]

/-- With clear reserved bits, an opcode of no command is a BAD_OPCODE (30_encoding R73). -/
theorem decode_eq_badOpcode {c : Word} (hrsv : c.toNat / 16 = 0)
    (hopc : ∀ i : Instr, c.toNat % 16 ≠ i.opcode.toNat) : decode c = .error .badOpcode := by
  cases hd : decode c with
  | ok i => exact absurd (by rw [← opcField_toNat, opcField_of_decode hd]) (hopc i)
  | error e =>
    cases e with
    | reservedCmdBits => exact absurd hrsv ((decode_eq_reservedCmdBits c).mp hd)
    | badOpcode => rfl

/-! Writes of CMD -/

/-- The step of a word that decodes (30_encoding R71). -/
theorem step_beforeCmd_of_decode {c : Word} {i : Instr} (h : decode c = .ok i) (s : State) :
    step (beforeCmd c s) = exec i s :=
  (step_beforeCmd c s).trans (command_of_decode h s)

/-- The step of an illegal word (30_encoding R73, R74). -/
theorem step_beforeCmd_of_illegal {c : Word} {e : IllegalWord} (h : decode c = .error e) (s : State) :
    step (beforeCmd c s) = .next (s.raise (opcField c) .illegalCommand (illegalCause e)) := by
  rw [step_beforeCmd, command_of_illegal h, illegal_eq_raise]

/-- An illegal word's STATUS as a number: KIND 5, CAUSE from bit 4 up, OPC from bit 8 up (30_encoding R80). -/
theorem step_beforeCmd_of_illegal_status {c : Word} {e : IllegalWord} (h : decode c = .error e) (s : State) :
    step (beforeCmd c s) = .next { s with
      status := BitVec.ofNat 32 ((illegalCause e).code.toNat * 16 + 5 + 256 * (c.toNat % 16))
      result := 0xFFFFFFFF#32 } := by
  have hst : statusWord (opcField c) .illegalCommand (illegalCause e)
      = BitVec.ofNat 32 ((illegalCause e).code.toNat * 16 + 5 + 256 * (c.toNat % 16)) := by
    have hkind : Kind.illegalCommand.code.toNat = 5 := rfl
    apply BitVec.eq_of_toNat_eq
    rw [statusWord_toNat, opcField_toNat, hkind, BitVec.toNat_ofNat]
    omega
  rw [step_beforeCmd_of_illegal h, ← hst]
  rfl

/-- A CMD write leaves the word's low four bits in STATUS.OPC (30_encoding R71). -/
theorem step_beforeCmd_opc (c : Word) (s : State) :
    ∃ t, step (beforeCmd c s) = .next t ∧ (t.status.toNat / 256) % 16 = c.toNat % 16 := by
  obtain ⟨t, ht⟩ := command_next c s
  obtain ⟨k, cause, hst, -⟩ := command_status ht
  refine ⟨t, (step_beforeCmd c s).trans ht, ?_⟩
  rw [hst, statusWord_toNat, opcField_toNat]
  omega

/-- Settles O3: `decode` in its three outcomes, and the STATUS every command word leaves. -/
theorem commandWordDecodeOrder : Obligations.CommandWordDecodeOrder := by
  intro c s
  refine ⟨?_, step_beforeCmd_opc c s⟩
  split_ifs with hrsv h1 h2 h3 h4 h5
  · exact step_beforeCmd_of_illegal_status ((decode_eq_reservedCmdBits c).mpr hrsv) s
  · exact step_beforeCmd_of_decode (decode_of_opcode .extract (not_not.mp hrsv) h1) s
  · exact step_beforeCmd_of_decode (decode_of_opcode .syncsafe (not_not.mp hrsv) h2) s
  · exact step_beforeCmd_of_decode (decode_of_opcode .findMasked (not_not.mp hrsv) h3) s
  · exact step_beforeCmd_of_decode (decode_of_opcode .findBytes (not_not.mp hrsv) h4) s
  · exact step_beforeCmd_of_decode (decode_of_opcode .mpegDecode (not_not.mp hrsv) h5) s
  · have hopc : ∀ i : Instr, c.toNat % 16 ≠ i.opcode.toNat := by intro i; cases i <;> assumption
    exact step_beforeCmd_of_illegal_status (decode_eq_badOpcode (not_not.mp hrsv) hopc) s

/-- A set bit of [31:4] makes the reserved field nonzero: a word below 16 has none. -/
theorem reserved_ne_zero_of_bit {c : Word} {b : Nat} (hb : 4 ≤ b) (hset : c.getLsbD b = true) :
    c.toNat / 16 ≠ 0 := by
  have hle : 2 ^ b ≤ c.toNat := Nat.ge_two_pow_of_testBit hset
  have hpow : 2 ^ 4 ≤ 2 ^ b := Nat.pow_le_pow_right (by omega) hb
  omega

/-- 0xD5 with OPC above it, in the bit operations of 30_encoding R74. -/
theorem reserved_statusWord (c : Word) :
    statusWord (opcField c) .illegalCommand .reservedCmdBits = 0x000000D5#32 ||| (c &&& 0xF#32) <<< 8 := by
  have hmask : c &&& 0xF#32 = (opcField c).setWidth 32 := by
    apply BitVec.eq_of_toNat_eq
    rw [BitVec.toNat_and, BitVec.toNat_setWidth, opcField_toNat]
    exact (Nat.and_two_pow_sub_one_eq_mod c.toNat 4).trans (by omega)
  have hopc : ∀ o : BitVec 4,
      statusWord o .illegalCommand .reservedCmdBits = 0x000000D5#32 ||| o.setWidth 32 <<< 8 := by decide
  rw [hmask, hopc]

/-- Settles O4: the set bit makes the reserved field nonzero, and the step is then `raise` alone. -/
theorem reservedBitsMakeWordIllegal : Obligations.ReservedBitsMakeWordIllegal := by
  intro c s b hb hset
  have hd : decode c = .error .reservedCmdBits := (decode_eq_reservedCmdBits c).mpr (reserved_ne_zero_of_bit hb hset)
  rw [step_beforeCmd_of_illegal hd, State.raise, illegalCause, reserved_statusWord]
  rfl

/-! Host programs -/

/-- The accesses of `p` placed as the host's next accesses. -/
def beforeStmts (p : List Stmt) (s : State) : State :=
  { s with hostProgram := p.map Stmt.access ++ s.hostProgram }

/-- The register writes `ws`, in order. -/
def writeRegs (ws : List (Reg × Word)) (s : State) : State := ws.foldl (fun s w => s.writeReg w.1 w.2) s

/-- The statements that make the register writes `ws`. -/
def writes (ws : List (Reg × Word)) : List Stmt := ws.map fun w => .wr w.1 w.2

theorem writeReg_beforeStmts (p : List Stmt) (s : State) (r : Reg) (v : Word) :
    (beforeStmts p s).writeReg r v = beforeStmts p (s.writeReg r v) := by
  cases r <;> rfl

/-- A write of a register other than CMD is done by one step, before the rest of the program. -/
theorem step_beforeStmts_wr {r : Reg} (hr : r ≠ .cmd) (v : Word) (p : List Stmt) (s : State) :
    step (beforeStmts (.wr r v :: p) s) = .next (beforeStmts p (s.writeReg r v)) :=
  calc step (beforeStmts (.wr r v :: p) s)
      = hostAccess (.regWrite 32 r.offset v) (beforeStmts p s) := step_before _ (beforeStmts p s)
    _ = .next ((beforeStmts p s).writeReg r v) := hostAccess_regWrite hr v _
    _ = .next (beforeStmts p (s.writeReg r v)) := by rw [writeReg_beforeStmts]

/-- A `cmd` statement runs its command (30_encoding R81). -/
theorem step_beforeStmts_cmd (i : Instr) (s : State) : step (beforeStmts [.cmd i] s) = exec i s :=
  step_beforeCmd_of_decode (decode_encode i) s

theorem run_succ_of_next {s t : State} (h : step s = .next t) (n : Nat) :
    Sys2Proof.core.run (n + 1) s = Sys2Proof.core.run n t := by
  simp only [Host.Core.run, show Sys2Proof.core.step s = .next t from h]

/-- One step of a run that stops there is the step itself. -/
theorem run_one (s : State) : Sys2Proof.core.run 1 s = step s := by
  simp only [Host.Core.run, show Sys2Proof.core.step s = step s from rfl]
  cases step s <;> rfl

/-- A run takes one step for each register write in front of a program (20_memory R62). -/
theorem run_writes {ws : List (Reg × Word)} (hws : ∀ w ∈ ws, w.1 ≠ .cmd) (p : List Stmt) (n : Nat) (s : State) :
    Sys2Proof.core.run (ws.length + n) (beforeStmts (writes ws ++ p) s)
      = Sys2Proof.core.run n (beforeStmts p (writeRegs ws s)) := by
  induction ws generalizing s with
  | nil => rw [List.length_nil, Nat.zero_add]; rfl
  | cons w ws ih =>
    obtain ⟨hw, hws⟩ := List.forall_mem_cons.mp hws
    rw [List.length_cons, Nat.add_right_comm]
    exact (run_succ_of_next (step_beforeStmts_wr hw w.2 _ s) _).trans (ih hws _)

/-- A program of register writes and a command, run to its end: the command on the written operands. -/
theorem run_writes_cmd {ws : List (Reg × Word)} (hws : ∀ w ∈ ws, w.1 ≠ .cmd) (i : Instr) (s : State) :
    Sys2Proof.core.run (ws.length + 1) (beforeStmts (writes ws ++ [.cmd i]) s) = exec i (writeRegs ws s) := by
  rw [run_writes hws, run_one, step_beforeStmts_cmd]

/-- Settles O56: each expansion is register writes and, but for `seek`, a command (30_encoding R82). -/
theorem pseudoInstructionsRun : Obligations.PseudoInstructionsRun := by
  intro s a b c d e f start
  refine ⟨?_, ?_, ?_, ?_, ?_, ?_⟩
  · exact run_writes_cmd (ws := [(.dataBase, a), (.dataLen, b), (.argA, c), (.argB, d)]) (by simp) .extract s
  · exact run_writes_cmd (ws := [(.dataBase, a), (.dataLen, b), (.argA, c)]) (by simp) .syncsafe s
  · exact run_writes_cmd (ws := [(.dataBase, a), (.dataLen, b), (.patBase, c), (.patLen, d), (.maskBase, e),
      (.maskLen, f), (.argA, start.getD 0#32)]) (by simp) .findMasked s
  · exact run_writes_cmd (ws := [(.dataBase, a), (.dataLen, b), (.patBase, c), (.patLen, d),
      (.argA, start.getD 0#32)]) (by simp) .findBytes s
  · exact run_writes (ws := [(.srcPos, a)]) (by simp) [] 0 s
  · exact run_writes_cmd (ws := [(.srcBase, a), (.srcLen, b), (.srcPos, c)]) (by simp) .mpegDecode s

end Sys2Proof.Proofs
end

section
/-! SUPPORT. Proofs of the statements of 40_bitfield: EXTRACT's argument tests, and its value as a sum of bits, as a
field of the window's little-endian value and as a field of a big-endian word. -/

namespace Sys2Proof.Proofs

open Sys2Proof.Machine Sys2Proof.Claim

/-! Numbers as fields and as sums of digits -/

/-- A field of `n` bits taken with the mask `2^n - 1`, bit by bit. -/
theorem testBit_shiftRight_and_mask (x off n j : Nat) :
    ((x >>> off) &&& ((1 <<< n) - 1)).testBit j = (decide (j < n) && x.testBit (off + j)) := by
  rw [Nat.testBit_and, Nat.testBit_shiftRight, Nat.one_shiftLeft, Nat.testBit_two_pow_sub_one, Bool.and_comm]

/-- `n` digits of `w` bits fill `w * n` bits. -/
theorem sum_digits_lt {d : Nat → Nat} {w : Nat} (hd : ∀ b, d b < 2 ^ w) (n : Nat) :
    ∑ b ∈ Finset.range n, d b <<< (w * b) < 2 ^ (w * n) := by
  induction n with
  | zero => simp
  | succ n ih =>
    calc ∑ b ∈ Finset.range (n + 1), d b <<< (w * b)
        < 2 ^ (w * n) + d n * 2 ^ (w * n) := by
          rw [Finset.sum_range_succ, Nat.shiftLeft_eq]
          exact Nat.add_lt_add_right ih _
      _ = (d n + 1) * 2 ^ (w * n) := by ring
      _ ≤ 2 ^ w * 2 ^ (w * n) := Nat.mul_le_mul_right _ (hd n)
      _ = 2 ^ (w * (n + 1)) := by ring

/-- Bit `j` of a number given by `w`-bit digits, least significant first, is bit `j mod w` of digit `j / w`. -/
theorem testBit_sum_digits {d : Nat → Nat} {w : Nat} (hw : 0 < w) (hd : ∀ b, d b < 2 ^ w) (n j : Nat) :
    (∑ b ∈ Finset.range n, d b <<< (w * b)).testBit j = (decide (j / w < n) && (d (j / w)).testBit (j % w)) := by
  induction n with
  | zero => simp
  | succ n ih =>
    rw [Finset.sum_range_succ, Nat.add_comm, Nat.shiftLeft_eq, Nat.mul_comm,
      Nat.testBit_two_pow_mul_add _ (sum_digits_lt hd n), ih]
    split_ifs with hj
    · have hdigit : j / w < n := Nat.div_lt_of_lt_mul hj
      simp [hdigit, Nat.lt_succ_of_lt hdigit]
    · obtain ⟨i, rfl⟩ := Nat.exists_eq_add_of_le (not_lt.mp hj)
      rw [Nat.add_sub_cancel_left, Nat.mul_add_div hw, Nat.mul_add_mod]
      rcases Nat.lt_or_ge i w with hi | hi
      · simp [Nat.div_eq_of_lt hi, Nat.mod_eq_of_lt hi]
      · have hdiv : 0 < i / w := Nat.div_pos hi hw
        have hbit : (d n).testBit i = false :=
          Nat.testBit_lt_two_pow ((hd n).trans_le (Nat.pow_le_pow_right (by omega) hi))
        have hout : ¬ n + i / w < n + 1 := by omega
        simp [hbit, hout]

/-! EXTRACT's value as a number -/

/-- A number that has the field's bits is EXTRACT's value (40_bitfield R101). -/
theorem extractField_toNat_eq {buf : Nat → Byte} {fb ms x : Nat} (hms : ms ≤ 32)
    (hx : ∀ j, x.testBit j = (decide (j < ms) && (buf ((fb + j) / 8)).getLsbD ((fb + j) % 8))) :
    (extractField buf fb ms).toNat = x :=
  Nat.eq_of_testBit_eq fun j => by rw [BitVec.testBit_toNat, extractField_getLsbD _ _ _ _ hms, hx]

/-- The first form of 40_bitfield R105. -/
theorem extractField_eq_sum_bits (buf : Nat → Byte) (fb ms : Nat) (hms : ms ≤ 32) :
    (extractField buf fb ms).toNat
      = ∑ j ∈ Finset.range ms, (((buf ((fb + j) / 8)).toNat >>> ((fb + j) % 8)) &&& 1) <<< j := by
  apply extractField_toNat_eq hms
  intro j
  have hbit : ∀ i, ((buf ((fb + i) / 8)).toNat >>> ((fb + i) % 8)) &&& 1 < 2 ^ 1 := fun i =>
    Nat.and_lt_two_pow _ (by omega)
  have hsum := testBit_sum_digits Nat.one_pos hbit ms j
  simp only [Nat.one_mul, Nat.div_one, Nat.mod_one] at hsum
  rw [hsum, Nat.testBit_and, Nat.testBit_shiftRight, BitVec.testBit_toNat]
  simp

/-- The second form of 40_bitfield R105: the window holds the field. -/
theorem extractField_eq_littleEndian_field (buf : Nat → Byte) (fb ms len : Nat) (hms : ms ≤ 32)
    (hlen : fb + ms ≤ 8 * len) :
    (extractField buf fb ms).toNat
      = ((∑ b ∈ Finset.range len, (buf b).toNat <<< (8 * b)) >>> fb) &&& ((1 <<< ms) - 1) := by
  apply extractField_toNat_eq hms
  intro j
  rw [testBit_shiftRight_and_mask, testBit_sum_digits (by omega) (fun b => (buf b).isLt), BitVec.testBit_toNat]
  by_cases hj : j < ms
  · have hbyte : (fb + j) / 8 < len := by omega
    simp [hbyte]
  · simp [hj]

/-- Four bytes side by side, as a number. -/
theorem append_four_toNat (w0 w1 w2 w3 : Byte) :
    (w0 ++ w1 ++ w2 ++ w3).toNat
      = (w0.toNat <<< 24) ||| (w1.toNat <<< 16) ||| (w2.toNat <<< 8) ||| w3.toNat := by
  simp only [BitVec.toNat_append, Nat.shiftLeft_or_distrib, ← Nat.shiftLeft_add]

/-- 40_bitfield R107: in four bytes the value is a field of their big-endian value, the last byte first. -/
theorem extractField_eq_bigEndian_field (buf : Nat → Byte) (off n : Nat) (h : off + n ≤ 32) :
    (extractField buf off n).toNat
      = (((buf 3).toNat <<< 24 ||| (buf 2).toNat <<< 16 ||| (buf 1).toNat <<< 8 ||| (buf 0).toNat) >>> off)
        &&& ((1 <<< n) - 1) := by
  rw [← append_four_toNat]
  apply Nat.eq_of_testBit_eq
  intro j
  rw [BitVec.testBit_toNat, extractField_reversed buf off n j h, testBit_shiftRight_and_mask, BitVec.testBit_toNat]

/-! EXTRACT -/

/-- A failing argument test ends EXTRACT with its cause (40_bitfield R102). -/
theorem exec_extract_of_failing {s : State} {c : Cause} (h : extractCheck s = some c) :
    exec .extract s = .next { s with status := statusWord 1#4 .invalidArgument c, result := 0xFFFFFFFF#32 } :=
  execExtract_of_failing h

/-- When no argument test fails EXTRACT ends OK with its value (40_bitfield R100). -/
theorem exec_extract_of_ready {s : State} (h : extractReady s) :
    exec .extract s = .next { s with
      status := 0x100#32, result := extractField (data s) s.argA.toNat s.argB.toNat } :=
  execExtract_of_ready ((extractCheck_eq_none s).mpr h)

/-- Settles O8: the two forms of the value on the data window. -/
theorem extractEquivalentForms : Obligations.ExtractEquivalentForms := by
  intro s hready
  have ⟨_, _, _, hwidth, hbits⟩ := hready
  exact ⟨_, exec_extract_of_ready hready, extractField_eq_sum_bits _ _ _ hwidth,
    extractField_eq_littleEndian_field _ _ _ _ hwidth hbits⟩

/-- Settles O10: the value function on the list of reversed bytes, and on a data window that holds them. -/
theorem extractOnReversedBytesIsBigEndianField : Obligations.ExtractOnReversedBytesIsBigEndianField := by
  intro w0 w1 w2 w3 off n hfit
  refine ⟨extractField_eq_bigEndian_field _ off n hfit, ?_⟩
  rintro s hn rfl rfl hlen hrange rfl rfl rfl rfl
  have hlen4 : s.dataLen.toNat = 4 := by rw [hlen]; rfl
  have hready : extractReady s := ⟨by omega, by omega, hn, by omega, by omega⟩
  exact ⟨_, exec_extract_of_ready hready, extractField_eq_bigEndian_field (data s) _ _ hfit⟩

/-- Settles O7: the chain of tests is that of `extractCheck`, and past it the state is ready. -/
theorem extractTestsInOrder : Obligations.ExtractTestsInOrder := by
  intro s
  split_ifs with hempty hrange hwidth hbits
  · exact exec_extract_of_failing (c := .emptyBuffer) (if_pos hempty)
  · refine exec_extract_of_failing (c := .windowRange) ?_
    rw [extractCheck, if_neg hempty, if_pos (not_le.mpr hrange)]
  · refine exec_extract_of_failing (c := .masksizeRange) ?_
    rw [extractCheck, if_neg hempty, if_neg (not_not.mpr (not_lt.mp hrange)), if_pos hwidth]
  · refine exec_extract_of_failing (c := .bitRange) ?_
    rw [extractCheck, if_neg hempty, if_neg (not_not.mpr (not_lt.mp hrange)), if_neg hwidth, if_pos hbits]
  · exact ⟨_, exec_extract_of_ready ⟨hempty, by omega, by omega, by omega, by omega⟩⟩

end Sys2Proof.Proofs
end

section
/-! SUPPORT. Proofs of the statements of 41_syncsafe: SYNCSAFE's argument tests, and its value as a number, bit by bit,
and as the 7-bit digits of bytes whose MSBs are clear. -/

namespace Sys2Proof.Proofs

open Sys2Proof.Machine Sys2Proof.Claim

/-! SYNCSAFE's value -/

/-- 41_syncsafe R121 as a number: no group leaves the 32 bits. -/
theorem syncsafeValue_toNat (buf : Nat → Byte) (si : Nat) :
    (syncsafeValue buf si).toNat
      = ((buf si).toNat <<< 21) ||| ((buf (si + 1)).toNat <<< 14) ||| ((buf (si + 2)).toNat <<< 7)
        ||| (buf (si + 3)).toNat := by
  have hgroup : ∀ (b : Byte) (k : Nat), k ≤ 21 → (b.setWidth 32 <<< k).toNat = b.toNat <<< k := by
    intro b k hk
    have hpow : 2 ^ k ≤ 2 ^ 21 := Nat.pow_le_pow_right (by omega) hk
    have hmul : b.toNat * 2 ^ k ≤ 255 * 2 ^ 21 := Nat.mul_le_mul (by omega) hpow
    rw [BitVec.toNat_shiftLeft, BitVec.toNat_setWidth_of_le (by omega), Nat.shiftLeft_eq, Nat.mod_eq_of_lt (by omega)]
  simp only [syncsafeValue_eq, BitVec.toNat_or, hgroup, Nat.reduceLeDiff,
    BitVec.toNat_setWidth_of_le (show 8 ≤ 32 by omega)]

/-- 41_syncsafe R123: bit `j` of the value is bit `j - 7 * (3 - i)` of byte `i`, or-ed over the four bytes. -/
theorem syncsafeValue_getLsbD (buf : Nat → Byte) (si : Nat) {j : Nat} (hj : j < 32) :
    (syncsafeValue buf si).getLsbD j
      = (!decide (j < 21) && (buf si).getLsbD (j - 21) || !decide (j < 14) && (buf (si + 1)).getLsbD (j - 14)
        || !decide (j < 7) && (buf (si + 2)).getLsbD (j - 7) || (buf (si + 3)).getLsbD j) := by
  have hk : ∀ k, j - k < 32 := fun k => by omega
  simp only [syncsafeValue_eq, BitVec.getLsbD_or, BitVec.getLsbD_shiftLeft, BitVec.getLsbD_setWidth, hj, hk,
    decide_true, Bool.true_and]

/-- The first byte's bit 7 has a place of its own (41_syncsafe R123). -/
theorem syncsafeValue_getLsbD_28 (buf : Nat → Byte) (si : Nat) :
    (syncsafeValue buf si).getLsbD 28 = (buf si).getLsbD 7 := by
  rw [syncsafeValue_getLsbD _ _ (by omega)]
  simp

/-- Bit 7 of a later byte falls on bit 0 of the byte before (41_syncsafe R123). -/
theorem syncsafeValue_getLsbD_msb (buf : Nat → Byte) (si : Nat) {i : Nat} (h1 : 1 ≤ i) (h3 : i ≤ 3) :
    (syncsafeValue buf si).getLsbD (7 * (4 - i)) = ((buf (si + i)).getLsbD 7 || (buf (si + (i - 1))).getLsbD 0) := by
  have hi : i = 1 ∨ i = 2 ∨ i = 3 := by omega
  rcases hi with rfl | rfl | rfl <;> rw [syncsafeValue_getLsbD _ _ (by omega)] <;> simp [Bool.or_comm]

theorem toNat_lt_of_msb_clear {b : Byte} (h : b.getLsbD 7 = false) : b.toNat < 2 ^ 7 := by
  have hmsb : b.msb = false := (BitVec.msb_eq_getLsbD_last b).trans h
  have := BitVec.msb_eq_false_iff_two_mul_lt.mp hmsb
  omega

/-- Bytes whose MSBs are clear are the value's digits in base 128 (41_syncsafe R121). -/
theorem syncsafeValue_toNat_of_clear {buf : Nat → Byte} {si : Nat}
    (h : ∀ i, i < 4 → (buf (si + i)).getLsbD 7 = false) :
    (syncsafeValue buf si).toNat
      = (((buf si).toNat * 128 + (buf (si + 1)).toNat) * 128 + (buf (si + 2)).toNat) * 128
        + (buf (si + 3)).toNat := by
  have hdigit : ∀ i, i < 4 → ∀ x, x <<< 7 ||| (buf (si + i)).toNat = x * 128 + (buf (si + i)).toNat := by
    intro i hi x
    rw [← Nat.shiftLeft_add_eq_or_of_lt (toNat_lt_of_msb_clear (h i hi)), Nat.shiftLeft_eq]
  calc (syncsafeValue buf si).toNat
      = (((buf si).toNat <<< 7 ||| (buf (si + 1)).toNat) <<< 7 ||| (buf (si + 2)).toNat) <<< 7
          ||| (buf (si + 3)).toNat := by
        simp only [syncsafeValue_toNat, Nat.shiftLeft_or_distrib, ← Nat.shiftLeft_add]
    _ = _ := by rw [hdigit 1 (by omega), hdigit 2 (by omega), hdigit 3 (by omega)]

theorem syncsafeValue_lt_of_clear {buf : Nat → Byte} {si : Nat}
    (h : ∀ i, i < 4 → (buf (si + i)).getLsbD 7 = false) : (syncsafeValue buf si).toNat < 2 ^ 28 := by
  have hlt := fun i hi => toNat_lt_of_msb_clear (h i hi)
  have h0 : (buf si).toNat < 2 ^ 7 := hlt 0 (by omega)
  have h1 := hlt 1 (by omega)
  have h2 := hlt 2 (by omega)
  have h3 := hlt 3 (by omega)
  rw [syncsafeValue_toNat_of_clear h]
  omega

/-- Digits in base 128 are the number's own: equal values have equal bytes. -/
theorem syncsafeValue_inj_of_clear {buf buf' : Nat → Byte} {si si' : Nat}
    (h : ∀ i, i < 4 → (buf (si + i)).getLsbD 7 = false) (h' : ∀ i, i < 4 → (buf' (si' + i)).getLsbD 7 = false)
    (heq : syncsafeValue buf si = syncsafeValue buf' si') : ∀ i, i < 4 → buf (si + i) = buf' (si' + i) := by
  have hsum := congrArg BitVec.toNat heq
  rw [syncsafeValue_toNat_of_clear h, syncsafeValue_toNat_of_clear h'] at hsum
  have hlt := fun i hi => toNat_lt_of_msb_clear (h i hi)
  have hlt' := fun i hi => toNat_lt_of_msb_clear (h' i hi)
  have h1 := hlt 1 (by omega)
  have h2 := hlt 2 (by omega)
  have h3 := hlt 3 (by omega)
  have h1' := hlt' 1 (by omega)
  have h2' := hlt' 2 (by omega)
  have h3' := hlt' 3 (by omega)
  intro i hi
  apply BitVec.eq_of_toNat_eq
  have hcases : i = 0 ∨ i = 1 ∨ i = 2 ∨ i = 3 := by omega
  rcases hcases with rfl | rfl | rfl | rfl
  · rw [Nat.add_zero, Nat.add_zero]
    omega
  all_goals omega

/-! SYNCSAFE -/

/-- A failing argument test ends SYNCSAFE with its cause (41_syncsafe R122). -/
theorem exec_syncsafe_of_failing {s : State} {c : Cause} (h : syncsafeCheck s = some c) :
    exec .syncsafe s = .next { s with status := statusWord 2#4 .invalidArgument c, result := 0xFFFFFFFF#32 } :=
  execSyncsafe_of_failing h

/-- When no argument test fails SYNCSAFE ends OK with its value (41_syncsafe R120). -/
theorem exec_syncsafe_of_ready {s : State} (h : syncsafeReady s) :
    exec .syncsafe s = .next { s with status := 0x200#32, result := syncsafeValue (data s) s.argA.toNat } :=
  execSyncsafe_of_ready ((syncsafeCheck_eq_none s).mpr h)

/-- Settles O12: the value of the four bytes as a number. -/
theorem syncsafeValueIsBigEndianGroups : Obligations.SyncsafeValueIsBigEndianGroups := fun s h =>
  ⟨_, exec_syncsafe_of_ready h, syncsafeValue_toNat (data s) s.argA.toNat⟩

/-- The reset state with the data window on the first four bytes of the WMEM `m`. -/
def onFourBytes (m : Memory) : State := { State.reset with wmem := m, dataLen := 4#32 }

theorem onFourBytes_ready (m : Memory) : syncsafeReady (onFourBytes m) := by
  change 4 ≠ 0 ∧ 0 + 4 ≤ 2 ^ 32 ∧ 0 + 4 ≤ 4
  decide

/-- Settles O13: the value's bits, and the bytes 00 00 01 00 and 00 00 00 80, which both give 0x80. -/
theorem syncsafeRangeAndUnmaskedBits : Obligations.SyncsafeRangeAndUnmaskedBits := by
  refine ⟨fun s h => ⟨_, exec_syncsafe_of_ready h, syncsafeValue_lt _ _, syncsafeValue_lt_of_clear,
    syncsafeValue_getLsbD_28 _ _, fun i => syncsafeValue_getLsbD_msb _ _⟩, ?_⟩
  exact ⟨onFourBytes [(2, 0x01#8)], onFourBytes [(3, 0x80#8)], _, _, onFourBytes_ready _, onFourBytes_ready _,
    by decide, exec_syncsafe_of_ready (onFourBytes_ready _), exec_syncsafe_of_ready (onFourBytes_ready _), by decide⟩

/-- Settles O14: the bytes are the digits of the value. -/
theorem syncsafeInjectiveOnClearBytes : Obligations.SyncsafeInjectiveOnClearBytes := fun _ _ h h' hclear hclear' =>
  ⟨_, _, exec_syncsafe_of_ready h, exec_syncsafe_of_ready h', syncsafeValue_inj_of_clear hclear hclear'⟩

/-- Settles O11: the chain of tests is that of `syncsafeCheck`, and past it the state is ready. -/
theorem syncsafeTestsInOrder : Obligations.SyncsafeTestsInOrder := by
  intro s
  split_ifs with hempty hrange hindex
  · exact exec_syncsafe_of_failing (c := .emptyBuffer) (if_pos hempty)
  · refine exec_syncsafe_of_failing (c := .windowRange) ?_
    rw [syncsafeCheck, if_neg hempty, if_pos (not_le.mpr hrange)]
  · refine exec_syncsafe_of_failing (c := .indexRange) ?_
    rw [syncsafeCheck, if_neg hempty, if_neg (not_not.mpr (not_lt.mp hrange)), if_pos hindex]
  · exact ⟨_, exec_syncsafe_of_ready ⟨hempty, by omega, by omega⟩⟩

end Sys2Proof.Proofs
end

section
/-! SUPPORT. Proofs of the statements of 42_search: the argument tests of FIND_MASKED and FIND_BYTES, and what the two
scans report. -/

namespace Sys2Proof.Proofs

open Sys2Proof.Machine Sys2Proof.Claim

/-! How a search ends -/

/-- What the scan of the search `i` answers on `s` (42_search R140, R150). -/
def searchScan (i : Instr) (s : State) : SearchResult :=
  scan s.config.searchMode (data s) s.patByte (searchMask i s) s.dataLen.toNat s.patLen.toNat s.argA.toNat

/-- The next state for a scan's answer (42_search R140, R145). -/
def searchEnd (i : Instr) (s : State) : SearchResult → State
  | .found j => foundAt i s j
  | .notFound => notFound i s

theorem endSearch_findMasked (s : State) (r : SearchResult) : s.endSearch 3#4 r = searchEnd .findMasked s r := by
  cases r <;> rfl

theorem endSearch_findBytes (s : State) (r : SearchResult) : s.endSearch 4#4 r = searchEnd .findBytes s r := by
  cases r <;> rfl

/-- When no argument test fails a search ends as its scan answers (42_search R140, R150). -/
theorem exec_of_searchReady {i : Instr} {s : State} (h : searchReady i s) :
    exec i s = .next (searchEnd i s (searchScan i s)) := by
  cases i with
  | findMasked =>
    exact (execFindMasked_of_ready ((findMaskedCheck_eq_none s).mpr h)).trans
      (congrArg Host.Outcome.next (endSearch_findMasked s _))
  | findBytes =>
    exact (execFindBytes_of_ready ((findBytesCheck_eq_none s).mpr h)).trans
      (congrArg Host.Outcome.next (endSearch_findBytes s _))
  | extract | syncsafe | mpegDecode => exact h.elim

theorem exec_of_found {i : Instr} {s : State} {j : Nat} (h : searchReady i s) (hscan : searchScan i s = .found j) :
    exec i s = .next (foundAt i s j) := by
  rw [exec_of_searchReady h, hscan]
  rfl

theorem exec_of_notFound {i : Instr} {s : State} (h : searchReady i s) (hscan : searchScan i s = .notFound) :
    exec i s = .next (notFound i s) := by
  rw [exec_of_searchReady h, hscan]
  rfl

/-- The start offset of a ready search is an offset of the data (42_search R141, R151). -/
theorem searchReady_start_lt {i : Instr} {s : State} (h : searchReady i s) : s.argA.toNat < s.dataLen.toNat := by
  cases i with
  | findMasked =>
    obtain ⟨-, -, -, -, -, -, hstart⟩ := h
    exact hstart
  | findBytes =>
    obtain ⟨-, -, -, -, hstart⟩ := h
    exact hstart
  | extract | syncsafe | mpegDecode => exact h.elim

/-- An offset up to DATA_LEN fits RESULT. -/
theorem foundAt_result_toNat (i : Instr) {s : State} {j : Nat} (hj : j ≤ s.dataLen.toNat) :
    (foundAt i s j).result.toNat = j :=
  Nat.mod_eq_of_lt (by omega)

/-! The naive scan -/

theorem allMatch_iff (i : Instr) (s : State) (j : Nat) :
    allMatch i s j ↔ matchesAt (data s) s.patByte (searchMask i s) s.patLen.toNat j = true :=
  (matchesAt_iff ..).symm

/-- With SEARCH_MODE = NAIVE the scan answers the first offset that matches, or that there is none
(42_search R144). -/
theorem searchScan_naive_cases (i : Instr) {s : State} (hmode : s.config.searchMode = .naive) :
    (∃ j, searchScan i s = .found j ∧ s.argA.toNat ≤ j ∧ j + s.patLen.toNat ≤ s.dataLen.toNat ∧ allMatch i s j
      ∧ ∀ j', s.argA.toNat ≤ j' → j' < j → ¬ allMatch i s j')
    ∨ (searchScan i s = .notFound
      ∧ ∀ j, s.argA.toNat ≤ j → j + s.patLen.toNat ≤ s.dataLen.toNat → ¬ allMatch i s j) := by
  have hscan : searchScan i s = scanNaiveFrom (data s) s.patByte (searchMask i s) s.patLen.toNat
      (s.dataLen.toNat + 1 - (s.patLen.toNat + s.argA.toNat)) s.argA.toNat := by
    rw [searchScan, hmode]
    rfl
  simp only [hscan, allMatch_iff, Bool.not_eq_true]
  rcases scanNaiveFrom_cases (data s) s.patByte (searchMask i s) s.patLen.toNat
    (s.dataLen.toNat + 1 - (s.patLen.toNat + s.argA.toNat)) s.argA.toNat with
    ⟨k, hk, hfound, hmatch, hfirst⟩ | ⟨hnone, hno⟩
  · refine .inl ⟨_, hfound, by omega, by omega, hmatch, fun j' hge hlt => ?_⟩
    obtain ⟨k', rfl⟩ := Nat.exists_eq_add_of_le hge
    exact hfirst k' (by omega)
  · refine .inr ⟨hnone, fun j hge hfit => ?_⟩
    obtain ⟨k, rfl⟩ := Nat.exists_eq_add_of_le hge
    exact hno k (by omega)

theorem searchScan_naive_found {i : Instr} {s : State} {j : Nat} (hmode : s.config.searchMode = .naive)
    (hge : s.argA.toNat ≤ j) (hfit : j + s.patLen.toNat ≤ s.dataLen.toNat) (hmatch : allMatch i s j)
    (hfirst : ∀ j', s.argA.toNat ≤ j' → j' < j → ¬ allMatch i s j') : searchScan i s = .found j := by
  rcases searchScan_naive_cases i hmode with ⟨j₀, hfound, hge₀, -, hmatch₀, hfirst₀⟩ | ⟨-, hno⟩
  · rcases Nat.lt_trichotomy j j₀ with hlt | rfl | hgt
    · exact absurd hmatch (hfirst₀ j hge hlt)
    · exact hfound
    · exact absurd hmatch₀ (hfirst j₀ hge₀ hgt)
  · exact absurd hmatch (hno j hge hfit)

theorem searchScan_naive_notFound {i : Instr} {s : State} (hmode : s.config.searchMode = .naive)
    (hno : ∀ j, s.argA.toNat ≤ j → j + s.patLen.toNat ≤ s.dataLen.toNat → ¬ allMatch i s j) :
    searchScan i s = .notFound := by
  rcases searchScan_naive_cases i hmode with ⟨j, -, hge, hfit, hmatch, -⟩ | ⟨hnone, -⟩
  · exact absurd hmatch (hno j hge hfit)
  · exact hnone

/-- Settles O17: the first matching offset is the one the scan answers, and it fits RESULT. -/
theorem naiveSearchFindsFirstMatch : Obligations.NaiveSearchFindsFirstMatch := fun i _ hready hmode =>
  ⟨fun _ hge hfit hmatch hfirst =>
    ⟨exec_of_found hready (searchScan_naive_found hmode hge hfit hmatch hfirst), foundAt_result_toNat i (by omega)⟩,
  fun hno => exec_of_notFound hready (searchScan_naive_notFound hmode hno)⟩

/-! The literal scan as a counter -/

/-- With every position counted the scan stops at once (42_search R143). -/
theorem scanLiteralFrom_full (data pattern mask : Nat → Byte) (P n i : Nat) :
    scanLiteralFrom data pattern mask P n i P = .found (i - P) := by
  cases n <;> exact if_pos rfl

/-- The literal scan of the search `i` with `n` data bytes left, after `m` bytes from the start offset. -/
def literalScanAfter (i : Instr) (s : State) (m n : Nat) : SearchResult :=
  scanLiteralFrom (data s) s.patByte (searchMask i s) s.patLen.toNat n (s.argA.toNat + m) (matchedAfter i s m)

theorem searchScan_of_literal (i : Instr) {s : State} (hmode : s.config.searchMode = .literal) :
    searchScan i s = literalScanAfter i s 0 (s.dataLen.toNat - s.argA.toNat) := by
  rw [searchScan, hmode]
  rfl

theorem literalScanAfter_of_full {i : Instr} {s : State} {m : Nat} (h : matchedAfter i s m = s.patLen.toNat)
    (n : Nat) : literalScanAfter i s m n = .found (s.argA.toNat + m - s.patLen.toNat) := by
  rw [literalScanAfter, h, scanLiteralFrom_full]

/-- One turn of the loop counts as `matchedAfter` does (42_search R143). -/
theorem literalScanAfter_succ {i : Instr} {s : State} {m : Nat} (h : matchedAfter i s m ≠ s.patLen.toNat) (n : Nat) :
    literalScanAfter i s m (n + 1) = literalScanAfter i s (m + 1) n := by
  unfold literalScanAfter
  by_cases hb : positionMatches i s (data s (s.argA.toNat + m)) (matchedAfter i s m)
  · have hcount : matchedAfter i s (m + 1) = matchedAfter i s m + 1 := if_pos hb
    rw [hcount]
    exact (if_neg h).trans (if_pos (beq_iff_eq.mpr hb))
  · have hcount : matchedAfter i s (m + 1) = 0 := if_neg hb
    rw [hcount]
    exact (if_neg h).trans (if_neg (beq_iff_eq.not.mpr hb))

/-- While the counter has not reached PAT_LEN the scan goes on. -/
theorem literalScanAfter_zero {i : Instr} {s : State} {m : Nat}
    (h : ∀ n', n' < m → matchedAfter i s n' ≠ s.patLen.toNat) (n : Nat) :
    literalScanAfter i s 0 (m + n) = literalScanAfter i s m n := by
  induction m generalizing n with
  | zero => rw [Nat.zero_add]
  | succ m ih =>
    rw [Nat.add_right_comm, Nat.add_assoc, ih (fun n' hn' => h n' (by omega)), literalScanAfter_succ (h m (by omega))]

/-- With SEARCH_MODE = LITERAL the scan reports where the counter first reaches PAT_LEN (42_search R143). -/
theorem searchScan_literal_found {i : Instr} {s : State} {n : Nat} (hmode : s.config.searchMode = .literal)
    (hn : n ≤ s.dataLen.toNat - s.argA.toNat) (hfull : matchedAfter i s n = s.patLen.toNat)
    (hfirst : ∀ n', n' < n → matchedAfter i s n' ≠ s.patLen.toNat) :
    searchScan i s = .found (s.argA.toNat + n - s.patLen.toNat) := by
  rw [searchScan_of_literal i hmode, ← Nat.add_sub_of_le hn, literalScanAfter_zero hfirst]
  exact literalScanAfter_of_full hfull _

theorem searchScan_literal_notFound {i : Instr} {s : State} (hmode : s.config.searchMode = .literal)
    (hno : ∀ n, n ≤ s.dataLen.toNat - s.argA.toNat → matchedAfter i s n ≠ s.patLen.toNat) :
    searchScan i s = .notFound := by
  rw [searchScan_of_literal i hmode]
  exact (literalScanAfter_zero (fun n hn => hno n hn.le) 0).trans (if_neg (hno _ le_rfl))

/-- Settles O18: the loop's count after n bytes is `matchedAfter`. -/
theorem literalSearchRunsMatchCounter : Obligations.LiteralSearchRunsMatchCounter := by
  intro i s hready hmode
  have hstart := searchReady_start_lt hready
  exact ⟨fun n hn hfull hfirst => ⟨exec_of_found hready (searchScan_literal_found hmode hn hfull hfirst),
    foundAt_result_toNat i (by omega)⟩, fun hno => exec_of_notFound hready (searchScan_literal_notFound hmode hno)⟩

/-! Both scans -/

/-- In both modes an offset a scan answers is a match in the data at or after the start (42_search R146). -/
theorem searchScan_sound {i : Instr} {s : State} (h : searchReady i s) :
    (∃ j, searchScan i s = .found j ∧ s.argA.toNat ≤ j ∧ j + s.patLen.toNat ≤ s.dataLen.toNat ∧ allMatch i s j)
    ∨ searchScan i s = .notFound := by
  have hstart := searchReady_start_lt h
  cases hmode : s.config.searchMode with
  | naive =>
    rcases searchScan_naive_cases i hmode with ⟨j, hfound, hge, hfit, hmatch, -⟩ | ⟨hnone, -⟩
    · exact .inl ⟨j, hfound, hge, hfit, hmatch⟩
    · exact .inr hnone
  | literal =>
    rw [searchScan_of_literal i hmode]
    rcases scanLiteralFrom_sound (data s) s.patByte (searchMask i s) s.patLen.toNat
      (s.dataLen.toNat - s.argA.toNat) s.argA.toNat 0 (by omega) (by simp) (by omega) with
      ⟨j, hfound, -, hge, hfit, hmatch⟩ | hnone
    · exact .inl ⟨j, hfound, hge, by omega, hmatch⟩
    · exact .inr hnone

/-- `s` with another SEARCH_MODE. -/
abbrev withMode (s : State) (m : SearchMode) : State := { s with config := { s.config with searchMode := m } }

theorem searchReady_withMode {i : Instr} {s : State} (h : searchReady i s) (m : SearchMode) :
    searchReady i (withMode s m) := by
  cases i <;> exact h

/-- Settles O19: where an offset matches, the naive scan answers one that is no later. -/
theorem literalSearchIsSound : Obligations.LiteralSearchIsSound := by
  intro i s hready _
  rcases searchScan_sound hready with ⟨j, hfound, hge, hfit, hmatch⟩ | hnone
  · have hnaive := searchReady_withMode hready .naive
    rcases searchScan_naive_cases i (s := withMode s .naive) rfl with ⟨j', hfound', -, -, -, hfirst⟩ | ⟨-, hno⟩
    · have hle : j' ≤ j := not_lt.mp fun hlt => hfirst j hge hlt hmatch
      exact .inl ⟨j, j', exec_of_found hready hfound, hge, hfit, hmatch, hle, exec_of_found hnaive hfound'⟩
    · exact absurd hmatch (hno j hge hfit)
  · exact .inr (exec_of_notFound hready hnone)

/-- Settles O21: an offset at which the pattern fits is at most N - P. -/
theorem searchOfShortDataIsNotFound : Obligations.SearchOfShortDataIsNotFound := by
  intro i s hready hshort
  rcases searchScan_sound hready with ⟨j, -, hge, hfit, -⟩ | hnone
  · omega
  · exact exec_of_notFound hready hnone

/-- From an offset that matches the counter counts the pattern's positions (42_search R143). -/
theorem matchedAfter_of_allMatch {i : Instr} {s : State} (h : allMatch i s s.argA.toNat) {n : Nat}
    (hn : n ≤ s.patLen.toNat) : matchedAfter i s n = n := by
  induction n with
  | zero => rfl
  | succ n ih =>
    rw [matchedAfter, ih (by omega)]
    exact if_pos (h n hn)

/-- Settles O22: in NAIVE the start is the first offset; in LITERAL the counter is first PAT_LEN after PAT_LEN
bytes. -/
theorem matchAtStartIsReported : Obligations.MatchAtStartIsReported := by
  intro i s hready hfit hmatch
  apply exec_of_found hready
  cases hmode : s.config.searchMode with
  | naive => exact searchScan_naive_found hmode le_rfl hfit hmatch fun j' hge hlt => absurd hlt (not_lt.mpr hge)
  | literal =>
    have hscan := searchScan_literal_found hmode (by omega) (matchedAfter_of_allMatch hmatch le_rfl) fun n' hlt => by
      rw [matchedAfter_of_allMatch hmatch hlt.le]
      exact hlt.ne
    rwa [Nat.add_sub_cancel] at hscan

/-! A pattern of one byte -/

/-- For P = 1 the literal scan tests the candidates of the naive one (42_search R146). -/
theorem scanLiteralFrom_one (data pattern mask : Nat → Byte) (n i : Nat) :
    scanLiteralFrom data pattern mask 1 n i 0 = scanNaiveFrom data pattern mask 1 n i := by
  induction n generalizing i with
  | zero => rfl
  | succ n ih =>
    have hcand : matchesAt data pattern mask 1 i = byteMatches (data i) (mask 0) (pattern 0) := by
      simp [matchesAt]
    simp only [scanLiteralFrom, scanNaiveFrom, hcand, scanLiteralFrom_full, ih, Nat.zero_add, Nat.add_sub_cancel,
      zero_ne_one, if_false]

theorem scan_one (m : SearchMode) (data pattern mask : Nat → Byte) (N s : Nat) :
    scan m data pattern mask N 1 s = scanNaive data pattern mask N 1 s := by
  cases m with
  | naive => rfl
  | literal =>
    have hcount : N + 1 - (1 + s) = N - s := by omega
    simp only [scan, scanLiteral, scanNaive, scanLiteralFrom_one, hcount]

/-- SEARCH_MODE stands unchanged beside the outcome. -/
theorem searchEnd_withMode (i : Instr) (s : State) (m : SearchMode) (r : SearchResult) :
    searchEnd i (withMode s m) r
      = { withMode s m with status := (searchEnd i s r).status, result := (searchEnd i s r).result } := by
  cases r <;> rfl

/-- For P = 1 the scan answers what the naive scan does (42_search R146). -/
theorem searchScan_withMode_of_one (i : Instr) {s : State} (hlen : s.patLen.toNat = 1) (m : SearchMode) :
    searchScan i (withMode s m) = searchScan i (withMode s .naive) := by
  have hscan := scan_one m (data s) s.patByte (searchMask i s) s.dataLen.toNat s.argA.toNat
  rw [← hlen] at hscan
  exact hscan

/-- In each mode the outcome is written from the scan's answer alone. -/
theorem exec_withMode {i : Instr} {s : State} {r : SearchResult} (h : searchReady i s) (m : SearchMode)
    (hscan : searchScan i (withMode s m) = r) :
    exec i (withMode s m)
      = .next { withMode s m with status := (searchEnd i s r).status, result := (searchEnd i s r).result } := by
  rw [exec_of_searchReady (searchReady_withMode h m), hscan, searchEnd_withMode]

/-- Settles O20: in each mode the scan answers what the naive scan does. -/
theorem searchModesAgreeOnOneByte : Obligations.SearchModesAgreeOnOneByte := by
  intro i s m m' hready hone
  have hlen : s.patLen.toNat = 1 := by rw [hone]; rfl
  exact ⟨_, _, exec_withMode hready m (searchScan_withMode_of_one i hlen m),
    exec_withMode hready m' (searchScan_withMode_of_one i hlen m')⟩

/-! The argument tests -/

/-- A failing argument test ends FIND_MASKED with its cause (42_search R141). -/
theorem exec_findMasked_of_failing {s : State} {c : Cause} (h : findMaskedCheck s = some c) :
    exec .findMasked s = .next { s with status := statusWord 3#4 .invalidArgument c, result := 0xFFFFFFFF#32 } :=
  execFindMasked_of_failing h

/-- A failing argument test ends FIND_BYTES with its cause (42_search R151). -/
theorem exec_findBytes_of_failing {s : State} {c : Cause} (h : findBytesCheck s = some c) :
    exec .findBytes s = .next { s with status := statusWord 4#4 .invalidArgument c, result := 0xFFFFFFFF#32 } :=
  execFindBytes_of_failing h

/-- A search whose tests pass ends OK or NOT_FOUND (42_search R145). -/
theorem exec_found_or_notFound {i : Instr} {s : State} (h : searchReady i s) :
    (∃ j, exec i s = .next (foundAt i s j)) ∨ exec i s = .next (notFound i s) := by
  rcases searchScan_sound h with ⟨j, hfound, -⟩ | hnone
  · exact .inl ⟨j, exec_of_found h hfound⟩
  · exact .inr (exec_of_notFound h hnone)

/-- Settles O15: the chain of tests is that of `findMaskedCheck`; past it the state is ready, and data shorter than the
pattern is O21's case. -/
theorem findMaskedTestsInOrder : Obligations.FindMaskedTestsInOrder := by
  intro s
  simp only [ne_eq, BitVec.toNat_inj]
  split_ifs with hdata hpat hlen hdataWin hpatWin hmaskWin hstart hlong
  · exact exec_findMasked_of_failing (c := .emptyBuffer) (if_pos hdata)
  · refine exec_findMasked_of_failing (c := .emptyBuffer) ?_
    rw [findMaskedCheck, if_neg hdata, if_pos hpat]
  · refine exec_findMasked_of_failing (c := .windowRange) ?_
    rw [findMaskedCheck, if_neg hdata, if_neg hpat, if_neg (not_not.mpr hlen), if_pos (not_le.mpr hdataWin)]
  · refine exec_findMasked_of_failing (c := .windowRange) ?_
    rw [findMaskedCheck, if_neg hdata, if_neg hpat, if_neg (not_not.mpr hlen),
      if_neg (not_not.mpr (not_lt.mp hdataWin)), if_pos (not_le.mpr hpatWin)]
  · refine exec_findMasked_of_failing (c := .windowRange) ?_
    rw [findMaskedCheck, if_neg hdata, if_neg hpat, if_neg (not_not.mpr hlen),
      if_neg (not_not.mpr (not_lt.mp hdataWin)), if_neg (not_not.mpr (not_lt.mp hpatWin)),
      if_pos (not_le.mpr hmaskWin)]
  · refine exec_findMasked_of_failing (c := .startRange) ?_
    rw [findMaskedCheck, if_neg hdata, if_neg hpat, if_neg (not_not.mpr hlen),
      if_neg (not_not.mpr (not_lt.mp hdataWin)), if_neg (not_not.mpr (not_lt.mp hpatWin)),
      if_neg (not_not.mpr (not_lt.mp hmaskWin)), if_pos hstart]
  · have hready : searchReady .findMasked s := ⟨hdata, hpat, hlen, by omega, by omega, by omega, by omega⟩
    exact searchOfShortDataIsNotFound _ s hready (by omega)
  · have hready : searchReady .findMasked s := ⟨hdata, hpat, hlen, by omega, by omega, by omega, by omega⟩
    exact (exec_found_or_notFound hready).imp_left fun ⟨_, h⟩ => ⟨_, h⟩
  · refine exec_findMasked_of_failing (c := .lenMismatch) ?_
    rw [findMaskedCheck, if_neg hdata, if_neg hpat, if_pos hlen]

/-- Settles O16: the chain of tests is that of `findBytesCheck`, and past it the state is ready. -/
theorem findBytesTestsInOrder : Obligations.FindBytesTestsInOrder := by
  intro s
  split_ifs with hdata hpat hdataWin hpatWin hstart
  · exact exec_findBytes_of_failing (c := .emptyBuffer) (if_pos hdata)
  · refine exec_findBytes_of_failing (c := .emptyBuffer) ?_
    rw [findBytesCheck, if_neg hdata, if_pos hpat]
  · refine exec_findBytes_of_failing (c := .windowRange) ?_
    rw [findBytesCheck, if_neg hdata, if_neg hpat, if_pos (not_le.mpr hdataWin)]
  · refine exec_findBytes_of_failing (c := .windowRange) ?_
    rw [findBytesCheck, if_neg hdata, if_neg hpat, if_neg (not_not.mpr (not_lt.mp hdataWin)),
      if_pos (not_le.mpr hpatWin)]
  · refine exec_findBytes_of_failing (c := .startRange) ?_
    rw [findBytesCheck, if_neg hdata, if_neg hpat, if_neg (not_not.mpr (not_lt.mp hdataWin)),
      if_neg (not_not.mpr (not_lt.mp hpatWin)), if_pos hstart]
  · have hready : searchReady .findBytes s := ⟨hdata, hpat, by omega, by omega, by omega⟩
    exact (exec_found_or_notFound hready).imp_left fun ⟨_, h⟩ => ⟨_, h⟩

/-! An all-ones mask -/

/-- On a mask window of the pattern's length and in range the two chains of tests are one (42_search R151). -/
theorem findMaskedCheck_eq_findBytesCheck {s : State} (hlen : s.maskLen = s.patLen)
    (hmask : s.inRange s.maskBase s.maskLen) : findMaskedCheck s = findBytesCheck s := by
  simp only [findMaskedCheck, findBytesCheck, hlen, ne_eq, not_true_eq_false, if_false,
    if_neg (not_not.mpr (hlen ▸ hmask))]

theorem statusWord_eq_ofNat (o : BitVec 4) (k : Kind) (c : Cause) :
    statusWord o k c = BitVec.ofNat 32 (k.code.toNat + 16 * c.code.toNat + 256 * o.toNat) := by
  have hsum : k.code.toNat + 16 * c.code.toNat + 256 * o.toNat = (statusWord o k c).toNat := by
    rw [statusWord_toNat]
    omega
  rw [hsum, BitVec.ofNat_toNat, BitVec.setWidth_eq]

/-- A scan's answer gives KIND, CAUSE and RESULT whatever the opcode (42_search R152). -/
theorem endSearch_status (s : State) (r : SearchResult) : ∃ (k : Kind) (c : Cause) (v : Word),
    ∀ o, s.endSearch o r = { s with status := statusWord o k c, result := v } := by
  cases r with
  | found j => exact ⟨.ok, .none, BitVec.ofNat 32 j, fun _ => rfl⟩
  | notFound => exact ⟨.notFound, .none, sentinel, fun _ => rfl⟩

/-- With an all-ones mask the two commands take the same branch with the same cause or the same answer of the scan
(42_search R152). -/
theorem findMasked_findBytes_of_ones {s : State} (hlen : s.maskLen = s.patLen)
    (hmask : s.inRange s.maskBase s.maskLen) (hones : ∀ k < s.patLen.toNat, s.maskByte k = onesMask k) :
    ∃ (k : Kind) (c : Cause) (v : Word),
      exec .findMasked s = .next { s with status := statusWord 3#4 k c, result := v }
      ∧ exec .findBytes s = .next { s with status := statusWord 4#4 k c, result := v } := by
  have hcheck := findMaskedCheck_eq_findBytesCheck hlen hmask
  cases hc : findBytesCheck s with
  | some c => exact ⟨_, _, _, exec_findMasked_of_failing (hcheck.trans hc), exec_findBytes_of_failing hc⟩
  | none =>
    have hstart := searchReady_start_lt ((findBytesCheck_eq_none s).mp hc)
    have hscan := scan_congr (data := s.dataByte) (pattern := s.patByte) s.config.searchMode hstart.le
      (fun _ _ => rfl) (fun _ _ => rfl) hones
    obtain ⟨k, c, v, hend⟩ := endSearch_status s (scan s.config.searchMode s.dataByte s.patByte onesMask
      s.dataLen.toNat s.patLen.toNat s.argA.toNat)
    refine ⟨k, c, v, ?_, (execFindBytes_of_ready hc).trans (congrArg _ (hend _))⟩
    exact (execFindMasked_of_ready (hcheck.trans hc)).trans (congrArg _ (hscan ▸ hend _))

/-- Settles O23: both STATUS words have one KIND and CAUSE, written as a sum of the fields. -/
theorem findBytesIsFindMaskedWithOnes : Obligations.FindBytesIsFindMaskedWithOnes := by
  intro s hlen hmask hones
  obtain ⟨k, c, v, hmasked, hbytes⟩ := findMasked_findBytes_of_ones hlen hmask hones
  rw [statusWord_eq_ofNat] at hmasked hbytes
  exact ⟨k.code, c.code, v, hmasked, hbytes⟩

end Sys2Proof.Proofs
end

section
/-! SUPPORT. Proofs of the statements of 43_mpeg: the header word's fields, MPEG_DECODE's failures in order, the header
a success stores and its register views, the cursor, the bits it ignores, and the default tables' frame sizes. -/

namespace Sys2Proof.Proofs

open Sys2Proof.Machine Sys2Proof.Claim

/-! The header's derived values stay in agreement -/

/-- A header is built with the derived values of its own fields (43_mpeg R191 to R193). -/
theorem headerOf_coherent (cfg : Config) (r : Nat → Byte) (v : Version) (l : Layer) :
    (headerOf cfg r v l).coherent cfg := ⟨rfl, rfl, rfl⟩

theorem decodeHeader_coherent {cfg : Config} {r : Nat → Byte} {h : FrameHeader} (hd : decodeHeader cfg r = .ok h) :
    h.coherent cfg := by
  rcases decodeHeader_cases cfg r with ⟨c, h', -⟩ | ⟨v, l, h'⟩ <;> cases h'.symm.trans hd
  exact headerOf_coherent cfg r v l

/-- MPEG_DECODE leaves no header or the one it decoded, whatever was stored before (10_state R42). -/
theorem execMpegDecode_headerCoherent {s t : State} (h : execMpegDecode s = .next t) : t.headerCoherent := by
  rcases execMpegDecode_cases s with ⟨-, h'⟩ | ⟨-, -, h'⟩ | ⟨-, -, ⟨c, -, h'⟩ | ⟨hdr, hd, h'⟩⟩ <;>
    cases h'.symm.trans h
  · exact fun _ hfh => nomatch hfh
  · exact fun _ hfh => nomatch hfh
  · exact fun _ hfh => nomatch hfh
  · rintro _ ⟨⟩
    exact decodeHeader_coherent hd

/-- A host access keeps the header and the tables, or it is one of the two that write the header (O39). -/
theorem hostAccess_headerCoherent {a : HostAccess} {s t : State} (hs : s.headerCoherent)
    (h : hostAccess a s = .next t) : t.headerCoherent := by
  by_cases hfh : t.fh = s.fh
  · rw [State.headerCoherent, hfh, (hostAccess_keeps_program_config h).2]
    exact hs
  · rcases onlyDecodeAndResetChangeHeader a s t ((step_before a s).trans h) hfh with rfl | rfl
    · exact execMpegDecode_headerCoherent ((command_of_decode (decode_encode .mpegDecode) s).symm.trans h)
    · cases h
      exact fun _ hfh => nomatch hfh

/-- Settles O47: an idle step holds the state, and every host access keeps the stored header coherent. -/
theorem stepKeepsHeaderCoherent : Obligations.StepKeepsHeaderCoherent := by
  intro s t hs h
  rcases step_next h with ⟨-, rfl⟩ | ⟨a, rest, -, h'⟩
  · exact hs
  · exact hostAccess_headerCoherent (s := { s with hostProgram := rest }) hs h'

/-! The fields of the header word -/

theorem field_eq_toNat (H : Word) (off n : Nat) : field H off n = (H.extractLsb' off n).toNat :=
  (BitVec.extractLsb'_toNat off n H).symm

/-- The decoder's field of the reversed bytes is that field of H (43_mpeg R172). -/
theorem extractField_header (s : State) {off n : Nat} (h : off + n ≤ 32) :
    extractField s.reversedHeader off n = ((headerWord s).extractLsb' off n).setWidth 32 := by
  apply BitVec.eq_of_getLsbD_eq
  intro j hj
  rw [extractField_reversedHeader s off n j h, BitVec.getLsbD_setWidth, BitVec.getLsbD_extractLsb']
  simp only [hj, decide_true, Bool.true_and]
  rfl

theorem setWidth_extractField_header (s : State) {off n : Nat} (h : off + n ≤ 32) :
    (extractField s.reversedHeader off n).setWidth n = (headerWord s).extractLsb' off n := by
  rw [extractField_header s h, BitVec.setWidth_setWidth_of_le _ (by omega), BitVec.setWidth_eq]

theorem extractField_header_toNat (s : State) {off n : Nat} (h : off + n ≤ 32) :
    (extractField s.reversedHeader off n).toNat = field (headerWord s) off n := by
  rw [extractField_header s h, field_eq_toNat, BitVec.toNat_setWidth_of_le (by omega)]

/-- The version map as numbers: the field value 1 is unmapped (43_mpeg R174). -/
theorem versionOf_header (s : State) :
    (versionOf ((extractField s.reversedHeader 19 2).setWidth 2)).map (fun v => v.code.toNat)
      = if field (headerWord s) 19 2 = 1 then none else some (versionNumber (headerWord s)) := by
  unfold versionNumber
  rw [setWidth_extractField_header s (by omega), field_eq_toNat]
  generalize (headerWord s).extractLsb' 19 2 = vf
  revert vf
  decide

/-- The layer map as numbers: the field value 0 is unmapped (43_mpeg R174). -/
theorem layerOf_header (s : State) :
    (layerOf ((extractField s.reversedHeader 17 2).setWidth 2)).map (fun l => l.code.toNat)
      = if field (headerWord s) 17 2 = 0 then none else some (layerNumber (headerWord s)) := by
  unfold layerNumber
  rw [setWidth_extractField_header s (by omega), field_eq_toNat]
  generalize (headerWord s).extractLsb' 17 2 = lf
  revert lf
  decide

theorem versionOf_header_eq_none {s : State} (h : field (headerWord s) 19 2 = 1) :
    versionOf ((extractField s.reversedHeader 19 2).setWidth 2) = none := by
  have hv := versionOf_header s
  rwa [if_pos h, Option.map_eq_none_iff] at hv

theorem layerOf_header_eq_none {s : State} (h : field (headerWord s) 17 2 = 0) :
    layerOf ((extractField s.reversedHeader 17 2).setWidth 2) = none := by
  have hl := layerOf_header s
  rwa [if_pos h, Option.map_eq_none_iff] at hl

theorem versionOf_header_eq_some {s : State} (h : field (headerWord s) 19 2 ≠ 1) :
    ∃ v, versionOf ((extractField s.reversedHeader 19 2).setWidth 2) = some v
      ∧ v.code.toNat = versionNumber (headerWord s) := by
  have hv := versionOf_header s
  rwa [if_neg h, Option.map_eq_some_iff] at hv

theorem layerOf_header_eq_some {s : State} (h : field (headerWord s) 17 2 ≠ 0) :
    ∃ l, layerOf ((extractField s.reversedHeader 17 2).setWidth 2) = some l
      ∧ l.code.toNat = layerNumber (headerWord s) := by
  have hl := layerOf_header s
  rwa [if_neg h, Option.map_eq_some_iff] at hl

theorem channelModeOf_code (cm : BitVec 2) : (channelModeOf cm).code = cm := by
  revert cm
  decide

/-! The format tests -/

theorem sync_iff (s : State) :
    extractField s.reversedHeader 21 11 = 0x7FF#32 ↔ field (headerWord s) 21 11 = 0x7FF := by
  rw [← extractField_header_toNat s (by omega), ← BitVec.toNat_inj]
  rfl

section decodeHeader
variable {cfg : Config} {r : Nat → Byte} {v : Version} {l : Layer}

theorem decodeHeader_of_noSync (hs : extractField r 21 11 ≠ 0x7FF#32) : decodeHeader cfg r = .error .badSync :=
  if_pos hs

theorem decodeHeader_of_noVersion (hs : extractField r 21 11 = 0x7FF#32)
    (hv : versionOf ((extractField r 19 2).setWidth 2) = none) : decodeHeader cfg r = .error .badVersion := by
  rw [decodeHeader, if_neg (not_not.mpr hs), hv]

theorem decodeHeader_of_noLayer (hs : extractField r 21 11 = 0x7FF#32)
    (hv : versionOf ((extractField r 19 2).setWidth 2) = some v)
    (hl : layerOf ((extractField r 17 2).setWidth 2) = none) : decodeHeader cfg r = .error .badLayer := by
  simp only [decodeHeader, hs, hv, hl, ne_eq, not_true_eq_false, if_false]

theorem decodeHeader_of_mapped (hs : extractField r 21 11 = 0x7FF#32)
    (hv : versionOf ((extractField r 19 2).setWidth 2) = some v)
    (hl : layerOf ((extractField r 17 2).setWidth 2) = some l) : decodeHeader cfg r = .ok (headerOf cfg r v l) := by
  simp only [decodeHeader, hs, hv, hl, ne_eq, not_true_eq_false, if_false]

end decodeHeader

/-- A failing format test ends MPEG_DECODE with its cause (43_mpeg R170, R177). -/
theorem exec_mpegDecode_of_badFormat {s : State} {c : Cause}
    (hr : s.srcBase.toNat + s.srcLen.toNat ≤ s.config.wmemSize) (ha : s.srcPos.toNat + 4 ≤ s.srcLen.toNat)
    (hd : decodeHeader s.config s.reversedHeader = .error c) :
    exec .mpegDecode s = .next (decodeFailed s (statusWord 5#4 .formatMismatch c)) :=
  execMpegDecode_of_error hr ((four_le_avail s).mpr ha) hd

/-- A success with its STATUS written out, the cursor's advance as a number (43_mpeg R175). -/
theorem acceptDecode_eq (s : State) (h : FrameHeader) : s.acceptDecode h = { s with
    status := 0x500#32, result := 0#32, fh := some h, srcPos := BitVec.ofNat 32 (s.srcPos.toNat + 4) } := by
  rw [BitVec.ofNat_add, BitVec.ofNat_toNat, BitVec.setWidth_eq]
  rfl

/-- A state that passes every test stores the header of its word, with the version and layer the word maps to
(43_mpeg R170, R174 to R176). -/
theorem exec_mpegDecode_of_ready {s : State} (h : mpegReady s) :
    ∃ v l, v.code.toNat = versionNumber (headerWord s) ∧ l.code.toNat = layerNumber (headerWord s)
      ∧ exec .mpegDecode s = .next (s.acceptDecode (headerOf s.config s.reversedHeader v l)) := by
  obtain ⟨hr, ha, hsync, hver, hlay⟩ := h
  obtain ⟨v, hv, hvn⟩ := versionOf_header_eq_some hver
  obtain ⟨l, hl, hln⟩ := layerOf_header_eq_some hlay
  exact ⟨v, l, hvn, hln, execMpegDecode_of_ok hr ((four_le_avail s).mpr ha)
    (decodeHeader_of_mapped ((sync_iff s).mpr hsync) hv hl)⟩

/-- Settles O25: the chain of tests is the command's own, and past it the state is ready. -/
theorem mpegFailuresInOrder : Obligations.MpegFailuresInOrder := by
  intro s
  split_ifs with hrange hshort hsync hver hlay
  · exact execMpegDecode_of_outOfRange (not_le.mpr hrange)
  · exact execMpegDecode_of_short (not_lt.mp hrange) (not_le.mp (mt (four_le_avail s).mp (not_le.mpr hshort)))
  · exact exec_mpegDecode_of_badFormat (c := .badSync) (by omega) (by omega)
      (decodeHeader_of_noSync (mt (sync_iff s).mp hsync))
  · exact exec_mpegDecode_of_badFormat (c := .badVersion) (by omega) (by omega)
      (decodeHeader_of_noVersion ((sync_iff s).mpr (not_not.mp hsync)) (versionOf_header_eq_none hver))
  · obtain ⟨v, hv, -⟩ := versionOf_header_eq_some hver
    exact exec_mpegDecode_of_badFormat (c := .badLayer) (by omega) (by omega)
      (decodeHeader_of_noLayer ((sync_iff s).mpr (not_not.mp hsync)) hv (layerOf_header_eq_none hlay))
  · obtain ⟨v, l, -, -, h⟩ :=
      exec_mpegDecode_of_ready ⟨by omega, by omega, not_not.mp hsync, hver, hlay⟩
    exact ⟨_, h.trans (congrArg _ (acceptDecode_eq s _))⟩

/-! The header a success stores -/

/-- A stored header's fields are those of H, the protection bit inverted (43_mpeg R172, R178, R179). -/
theorem headerOf_fields (s : State) (v : Version) (l : Layer) :
    let h := headerOf s.config s.reversedHeader v l
    h.version = v ∧ h.layer = l ∧ h.isProtected.toNat = 1 - field (headerWord s) 16 1
      ∧ h.bitrateIndex = (headerWord s).extractLsb' 12 4 ∧ h.srateIndex = (headerWord s).extractLsb' 10 2
      ∧ h.padding = (headerWord s).extractLsb' 9 1 ∧ h.channelMode.code = (headerWord s).extractLsb' 6 2 := by
  have hprot : (extractField s.reversedHeader 16 1 == 0#32).toNat = 1 - field (headerWord s) 16 1 := by
    rw [extractField_header s (by omega), field_eq_toNat]
    generalize (headerWord s).extractLsb' 16 1 = b
    revert b
    decide
  exact ⟨rfl, rfl, hprot, setWidth_extractField_header s (by omega), setWidth_extractField_header s (by omega),
    setWidth_extractField_header s (by omega),
    (channelModeOf_code _).trans (setWidth_extractField_header s (by omega))⟩

/-- Settles O26: FH_FIELDS of the stored header as a number, field by field. -/
theorem mpegDecodePacksHeaderFields : Obligations.MpegDecodePacksHeaderFields := by
  intro s hready
  obtain ⟨v, l, hv, hl, h⟩ := exec_mpegDecode_of_ready hready
  obtain ⟨hver, hlay, hprot, hbi, hsi, hpad, hcm⟩ := headerOf_fields s v l
  refine ⟨_, h, rfl, rfl, ?_⟩
  rw [(readReg_of_parsed (s.acceptDecode_fh _)).1, fieldsWord_toNat, hver, hlay, hprot, hbi, hsi, hpad, hcm, hv, hl]
  simp only [field_eq_toNat]

/-! The derived values -/

/-- A derived register reads the exact value when it fits 31 bits, or ERR (43_mpeg R190, R196). -/
theorem ofExact_word_toNat {x : Option Nat} (hx : ∀ n ∈ x, n < 2 ^ 31) :
    (Derived.ofExact x).word.toNat = derivedView x := by
  cases x with
  | none => rfl
  | some n => exact ofExact_some_word (hx n rfl)

/-- A coherent header's derived registers read its exact values (43_mpeg R190, R196). -/
theorem coherent_words {cfg : Config} {h : FrameHeader} (hc : h.coherent cfg) :
    h.bitrate.word.toNat = derivedView (bitrateOf cfg h.version h.layer h.bitrateIndex)
    ∧ h.samplingRate.word.toNat = derivedView (samplingRateOf cfg h.version h.srateIndex)
    ∧ h.frameSize.word.toNat = derivedView (frameSizeOf h.layer (bitrateOf cfg h.version h.layer h.bitrateIndex)
        (samplingRateOf cfg h.version h.srateIndex) h.padding.toNat) := by
  obtain ⟨hbr, hsr, hfs⟩ := hc
  have hpad : h.padding.toNat ≤ 1 := Nat.le_of_lt_succ h.padding.isLt
  rw [hbr, hsr, hfs]
  exact ⟨ofExact_word_toNat fun _ hb => (bitrateOf_le hb).trans_lt (by omega),
    ofExact_word_toNat fun _ hr => samplingRateOf_lt hr,
    ofExact_word_toNat fun _ hn => frameSizeOf_lt hpad (fun _ hb => bitrateOf_le hb) hn⟩

/-- The bitrate row of 43_mpeg R183, as the numbers of the version and layer give it. -/
theorem bitrateRow_val (v : Version) (l : Layer) : (bitrateRow v l).val
    = if v.code.toNat = 1 then l.code.toNat - 1 else if l.code.toNat = 1 then 3 else 4 := by
  cases v <;> cases l <;> rfl

theorem srateRow_val (v : Version) : (srateRow v).val = v.code.toNat - 1 := by cases v <;> rfl

/-- A table lookup by indices that are in range finds the cell. -/
theorem lookup_cell {α β : Type} {m n : Nat} (table : Vector (Vector α m) n) (i : Fin n) (j : Fin m)
    (f : α → Option β) : (do let row ← table[i.val]?; let cell ← row[j.val]?; f cell) = f table[i][j] := by
  simp

/-- The bitrate is 1000 times the cell the header selects (43_mpeg R191). -/
theorem bitrateOf_eq_bitrateCell (cfg : Config) {H : Word} {v : Version} {l : Layer}
    (hv : v.code.toNat = versionNumber H) (hl : l.code.toNat = layerNumber H) :
    bitrateOf cfg v l (H.extractLsb' 12 4) = (bitrateCell cfg H).map (· * 1000) := by
  have hcell : bitrateCell cfg H = (cfg.bitrateTable[bitrateRow v l][(H.extractLsb' 12 4).toFin]).map (·.val) := by
    rw [bitrateCell, ← hv, ← hl, ← bitrateRow_val]
    exact lookup_cell cfg.bitrateTable (bitrateRow v l) (H.extractLsb' 12 4).toFin _
  rw [hcell, Option.map_map]
  rfl

/-- The sampling rate is the cell the header selects (43_mpeg R192). -/
theorem samplingRateOf_eq_srateCell (cfg : Config) {H : Word} {v : Version} (hv : v.code.toNat = versionNumber H) :
    samplingRateOf cfg v (H.extractLsb' 10 2) = srateCell cfg H := by
  rw [srateCell, ← hv, ← srateRow_val]
  exact (lookup_cell cfg.srateTable (srateRow v) (H.extractLsb' 10 2).toFin _).symm

theorem frameSizeOf_eq_frameSize (l : Layer) (br sr : Option Nat) (pad : Nat) :
    frameSizeOf l br sr pad = frameSize l.code.toNat br sr pad := by
  cases br with
  | none => rfl
  | some b =>
    cases sr with
    | none => rfl
    | some r => cases l <;> rfl

/-- The derived registers after a success: what the header word selects in the tables, exact
(43_mpeg R190 to R193, R196). -/
theorem exec_mpegDecode_derived {s : State} (hready : mpegReady s) : ∃ t, exec .mpegDecode s = .next t
    ∧ (t.readReg .fhBitrate).toNat = derivedView ((bitrateCell s.config (headerWord s)).map (· * 1000))
    ∧ (t.readReg .fhSrate).toNat = derivedView (srateCell s.config (headerWord s))
    ∧ (t.readReg .fhFsize).toNat = derivedView (frameSize (layerNumber (headerWord s))
        ((bitrateCell s.config (headerWord s)).map (· * 1000)) (srateCell s.config (headerWord s))
        (field (headerWord s) 9 1)) := by
  obtain ⟨v, l, hv, hl, h⟩ := exec_mpegDecode_of_ready hready
  obtain ⟨-, hbitrate, hsrate, hfsize⟩ := readReg_of_parsed (s.acceptDecode_fh _)
  obtain ⟨hver, hlay, -, hbi, hsi, hpad, -⟩ := headerOf_fields s v l
  refine ⟨_, h, ?_⟩
  rw [hbitrate, hsrate, hfsize, field_eq_toNat, ← bitrateOf_eq_bitrateCell s.config hv hl,
    ← samplingRateOf_eq_srateCell s.config hv, ← hl, ← frameSizeOf_eq_frameSize]
  have hwords := coherent_words (headerOf_coherent s.config s.reversedHeader v l)
  rwa [hver, hlay, hbi, hsi, hpad] at hwords

/-- Settles O27: the first two derived registers. -/
theorem mpegDecodeLooksUpRates : Obligations.MpegDecodeLooksUpRates := by
  intro s hready
  obtain ⟨t, h, hbitrate, hsrate, -⟩ := exec_mpegDecode_derived hready
  exact ⟨t, h, hbitrate, hsrate⟩

/-- Settles O28: the third derived register. -/
theorem mpegDecodeComputesFrameSize : Obligations.MpegDecodeComputesFrameSize := by
  intro s hready
  obtain ⟨t, h, -, -, hfsize⟩ := exec_mpegDecode_derived hready
  exact ⟨t, h, hfsize⟩

/-! The cursor -/

/-- MPEG_DECODE fails with a KIND other than OK, or accepts a header whose four bytes lie in the stream window
(43_mpeg R171, R175, R177). -/
theorem exec_mpegDecode_cases (s : State) :
    (∃ k c, k ≠ .ok ∧ exec .mpegDecode s = .next (s.failDecode k c))
    ∨ (s.srcPos.toNat + 4 ≤ s.srcLen.toNat ∧ ∃ h, exec .mpegDecode s = .next (s.acceptDecode h)) := by
  rcases execMpegDecode_cases s with ⟨-, h⟩ | ⟨-, -, h⟩ | ⟨-, ha, ⟨c, -, h⟩ | ⟨hdr, -, h⟩⟩
  · exact .inl ⟨_, _, by decide, h⟩
  · exact .inl ⟨_, _, by decide, h⟩
  · exact .inl ⟨_, c, by decide, h⟩
  · exact .inr ⟨(four_le_avail s).mp ha, hdr, h⟩

/-- Settles O29: a failure has another KIND and keeps SRC_POS; on success four bytes lie at the cursor, so SRC_POS + 4
does not wrap. -/
theorem mpegCursorAdvancesOnSuccessOnly : Obligations.MpegCursorAdvancesOnSuccessOnly := by
  intro s
  rcases exec_mpegDecode_cases s with ⟨k, c, hk, h⟩ | ⟨hin, hdr, h⟩
  · refine ⟨_, h, fun hok => ?_, fun _ => rfl⟩
    exact absurd ((statusWord_mod_eight _ _ _).mp hok) hk
  · have hpos : (s.srcPos + 4#32).toNat = s.srcPos.toNat + 4 := by
      rw [BitVec.toNat_add, BitVec.toNat_ofNat]
      omega
    refine ⟨_, h, fun _ => ⟨hpos, hpos.trans_le hin⟩, fun hkind => ?_⟩
    exact absurd ((statusWord_mod_eight _ _ _).mpr rfl) hkind

/-! The bits the decoder ignores -/

/-- The offset and width of every header field the decoder takes (43_mpeg R172). -/
def headerFields : List (Nat × Nat) := [(21, 11), (19, 2), (17, 2), (16, 1), (12, 4), (10, 2), (9, 1), (6, 2)]

/-- The decoder reads its bytes through these fields alone. -/
theorem decodeHeader_congr {cfg : Config} {r r' : Nat → Byte}
    (h : ∀ f ∈ headerFields, extractField r f.1 f.2 = extractField r' f.1 f.2) :
    decodeHeader cfg r = decodeHeader cfg r' := by
  simp only [headerFields, List.forall_mem_cons] at h
  obtain ⟨hsync, hver, hlay, hprot, hbi, hsi, hpad, hcm, -⟩ := h
  simp only [decodeHeader, headerOf, hsync, hver, hlay, hprot, hbi, hsi, hpad, hcm]

/-- No field lies outside the mask: it leaves out bits 8 and 5..0 only (43_mpeg R172). -/
theorem headerFields_in_mask :
    ∀ f ∈ headerFields, f.1 + f.2 ≤ 32 ∧ ∀ j < f.2, (0xFFFFFEC0#32).getLsbD (f.1 + j) = true := by decide

/-- Header words that agree under the mask have the same fields. -/
theorem extractLsb'_congr_of_masked {H H' : Word} (h : H' &&& 0xFFFFFEC0#32 = H &&& 0xFFFFFEC0#32) {f : Nat × Nat}
    (hf : f ∈ headerFields) : H'.extractLsb' f.1 f.2 = H.extractLsb' f.1 f.2 := by
  apply BitVec.eq_of_getLsbD_eq
  intro j hj
  have hbit := congrArg (·.getLsbD (f.1 + j)) h
  simpa [hj, (headerFields_in_mask f hf).2 j hj] using hbit

/-- Settles O31: the tests before the header read no byte of it, and the header's fields agree. -/
theorem mpegIgnoresUnreadHeaderBits : Obligations.MpegIgnoresUnreadHeaderBits := by
  intro s m hmask
  have hheader : decodeHeader s.config ({ s with wmem := m } : State).reversedHeader
      = decodeHeader s.config s.reversedHeader := by
    refine decodeHeader_congr fun f hf => ?_
    have hfit := (headerFields_in_mask f hf).1
    rw [extractField_header _ hfit, extractField_header _ hfit, extractLsb'_congr_of_masked hmask hf]
  rcases execMpegDecode_cases s with ⟨hr, h⟩ | ⟨hr, ha, h⟩ | ⟨hr, ha, ⟨c, hd, h⟩ | ⟨hdr, hd, h⟩⟩
  · exact ⟨_, h, execMpegDecode_of_outOfRange (s := { s with wmem := m }) hr⟩
  · exact ⟨_, h, execMpegDecode_of_short (s := { s with wmem := m }) hr ha⟩
  · exact ⟨_, h, execMpegDecode_of_error (s := { s with wmem := m }) hr ha (hheader.trans hd)⟩
  · exact ⟨_, h, execMpegDecode_of_ok (s := { s with wmem := m }) hr ha (hheader.trans hd)⟩

/-! The default tables -/

/-- The lowest sampling rate of a version's default row (43_mpeg R181). -/
def lowestRate : Version → Nat
  | .v1 => 32000
  | .v2 => 16000
  | .v3 => 8000

/-- In the default tables no bitrate of a version exceeds this many times its lowest sampling rate. -/
def rateRatio : Layer → Nat
  | .l1 => 32
  | .l2 => 20
  | .l3 => 20

theorem default_samplingRate_ge {cfg : Config} (hcfg : cfg.srateTable = defaultSrateTable) (v : Version)
    (si : BitVec 2) : ∀ r ∈ samplingRateOf cfg v si, lowestRate v ≤ r := by
  unfold samplingRateOf
  rw [hcfg]
  revert si
  cases v <;> decide

theorem default_bitrate_le {cfg : Config} (hcfg : cfg.bitrateTable = defaultBitrateTable) (v : Version) (l : Layer)
    (bi : BitVec 4) : ∀ b ∈ bitrateOf cfg v l bi, b ≤ rateRatio l * lowestRate v := by
  unfold bitrateOf
  rw [hcfg]
  revert bi
  cases v <;> cases l <;> decide

/-- A bitrate within the ratio gives a frame of at most 4 * (12 * 32 + 1) or 144 * 20 + 1 bytes (43_mpeg R193). -/
theorem frameSizeOf_le {l : Layer} {b r low pad : Nat} (hb : b ≤ rateRatio l * low) (hr : low ≤ r) (hpad : pad ≤ 1) :
    ∀ n ∈ frameSizeOf l (some b) (some r) pad, n ≤ 2881 := by
  have hquot : ∀ k, k * b / r ≤ k * rateRatio l := fun k => Nat.div_le_of_le_mul <|
    calc k * b ≤ k * (rateRatio l * r) := Nat.mul_le_mul_left k (hb.trans (Nat.mul_le_mul_left _ hr))
      _ = r * (k * rateRatio l) := by ring
  have h12 := hquot 12
  have h144 := hquot 144
  simp only [frameSizeOf]
  split
  · exact fun _ hn => nomatch hn
  · cases l <;> rintro _ ⟨⟩ <;> simp only [rateRatio] at h12 h144 <;> omega

theorem default_frameSize_le {cfg : Config} (hb : cfg.bitrateTable = defaultBitrateTable)
    (hs : cfg.srateTable = defaultSrateTable) (v : Version) (l : Layer) (bi : BitVec 4) (si : BitVec 2)
    {pad : Nat} (hpad : pad ≤ 1) :
    ∀ n ∈ frameSizeOf l (bitrateOf cfg v l bi) (samplingRateOf cfg v si) pad, n ≤ 2881 := by
  have hbr := default_bitrate_le hb v l bi
  have hsr := default_samplingRate_ge hs v si
  cases hbitrate : bitrateOf cfg v l bi with
  | none => exact fun _ hn => nomatch hn
  | some b =>
    cases hsrate : samplingRateOf cfg v si with
    | none => exact fun _ hn => nomatch hn
    | some r => exact frameSizeOf_le (hbr b hbitrate) (hsr r hsrate) hpad

theorem derivedView_le {x : Option Nat} {m : Nat} (h : ∀ n ∈ x, n ≤ m) :
    derivedView x ≤ m ∨ derivedView x = 0x80000000 := by
  cases x with
  | none => exact .inr rfl
  | some n => exact .inl (h n rfl)

/-- With the default tables a coherent header's frame size is within the bound, or ERR (43_mpeg R196). -/
theorem coherent_frameSize_le {cfg : Config} {h : FrameHeader} (hb : cfg.bitrateTable = defaultBitrateTable)
    (hs : cfg.srateTable = defaultSrateTable) (hc : h.coherent cfg) :
    h.frameSize.word.toNat ≤ 2881 ∨ h.frameSize.word = 0x80000000#32 := by
  obtain ⟨-, -, hsize⟩ := coherent_words hc
  rw [← BitVec.toNat_inj, hsize]
  exact derivedView_le (default_frameSize_le hb hs _ _ _ _ (Nat.le_of_lt_succ h.padding.isLt))

/-- Header FF E3 EA 00 at address 0 with the default configuration: version 3, layer 3, 160 kbit/s, 8000 Hz, padded. -/
def longestFrame : State :=
  { State.reset with wmem := [(0, 0xFF#8), (1, 0xE3#8), (2, 0xEA#8)], srcLen := 4#32 }

theorem longestFrame_ready : mpegReady longestFrame := by
  unfold mpegReady
  decide

/-- Settles O32: the bound of the default tables on the stored header, and the header that reaches it. -/
theorem defaultTablesFrameSizeBound : Obligations.DefaultTablesFrameSizeBound := by
  constructor
  · intro s hb hs hready
    obtain ⟨v, l, -, -, h⟩ := exec_mpegDecode_of_ready hready
    obtain ⟨-, -, -, hfsize⟩ := readReg_of_parsed (s.acceptDecode_fh _)
    refine ⟨_, h, ?_⟩
    rw [hfsize]
    exact coherent_frameSize_le hb hs (headerOf_coherent s.config s.reversedHeader v l)
  · obtain ⟨t, h, -, -, hfsize⟩ := exec_mpegDecode_derived longestFrame_ready
    refine ⟨longestFrame, t, by decide, rfl, h, hfsize.trans ?_⟩
    decide

end Sys2Proof.Proofs
end

section
/-! SUPPORT. Proofs of the statements of 60_exceptions: what a failing command word leaves, and the idle step. -/

namespace Sys2Proof.Proofs

open Sys2Proof.Machine Sys2Proof.Claim

theorem statusKind_eq_zero (w : Word) : statusKind w = 0#3 ↔ w.toNat % 8 = 0 := by
  rw [← BitVec.toNat_inj, statusKind, BitVec.extractLsb'_toNat, Nat.shiftRight_zero, BitVec.toNat_ofNat]

/-- A failing command word leaves the sentinel in RESULT: every command leaves a legal outcome (10_state R25). -/
theorem command_result_of_failing {c : Word} {s t : State} (h : command c s = .next t)
    (hkind : t.status.toNat % 8 ≠ 0) : t.result = 0xFFFFFFFF#32 := by
  obtain ⟨-, hsentinel, -, -⟩ := command_outcomeLegal h
  exact hsentinel (mt (statusKind_eq_zero t.status).mp hkind)

/-- A failing MPEG_DECODE also clears FH, and writes nothing further (43_mpeg R177, 60 R222). -/
theorem exec_mpegDecode_of_failing {s t : State} (h : exec .mpegDecode s = .next t)
    (hkind : t.status.toNat % 8 ≠ 0) : t = decodeFailed s t.status := by
  rcases exec_mpegDecode_cases s with ⟨k, c, -, h'⟩ | ⟨-, hdr, h'⟩ <;> cases h'.symm.trans h
  · rfl
  · exact absurd ((statusWord_mod_eight _ .ok .none).mpr rfl) hkind

/-- Settles O35: every word but MPEG_DECODE's writes STATUS and RESULT only, RESULT the sentinel on a failure; a
failing MPEG_DECODE ends in `decodeFailed`. -/
theorem failuresArePrecise : Obligations.FailuresArePrecise := by
  intro c s
  obtain ⟨t, ht⟩ := command_next c s
  refine ⟨t, (step_beforeCmd c s).trans ht, fun hkind => ⟨fun hc => ?_, ?_⟩⟩
  · have hframe := command_outcomeFrame hc ht
    rwa [OutcomeFrame, command_result_of_failing ht hkind] at hframe
  · rintro rfl
    exact exec_mpegDecode_of_failing ((command_of_decode (decode_encode .mpegDecode) s).symm.trans ht) hkind

/-- Settles O43: with no access waiting, a step is the identity (60 R237, 70 R251). -/
theorem idleStepHoldsState : Obligations.IdleStepHoldsState := fun _ => step_nil

end Sys2Proof.Proofs
end
